-- ==== Sys2Proof/Word.lean ====
section
/-! DEFINITION. The word types of the engine (00_scope.md R11: bit 0 is the least significant bit, every value is unsigned). -/

namespace Sys2Proof

/-- A command byte, a data byte or an expander byte. -/
abbrev Byte := BitVec 8

/-- One 4-bit transfer to the controller (30_encoding.md R72). -/
abbrev Nibble := BitVec 4

end Sys2Proof
end

