-- ==== Sys2Proof/Machine/Encoder.lean ====
section
/-! DEFINITION. The CommandEncoder (40_command_encoder.md), the constants it uses (30_encoding.md R64) and the layout of the
expander byte (30_encoding.md R72). Pure, total and without errors (40_command_encoder.md R87). -/

namespace Sys2Proof.Machine

/-! Constants, each defined once and by name (40_command_encoder.md R88). -/

def CLR : Byte := 0x01
def HOME : Byte := 0x02
def ENTRY_MODE : Byte := 0x04
/-- The increment bit of the entry mode. -/
def INC : Byte := 0x02
def ON_CTRL : Byte := 0x08
/-- The display-on bit. -/
def DISPLAY : Byte := 0x04
/-- The cursor-visible bit. -/
def CURSOR : Byte := 0x02
/-- The cursor-blink bit: 0x01, never 0x02 (90_conflicts.md C1). -/
def BLINK : Byte := 0x01
def FUNCTION : Byte := 0x20
/-- The data-width bit; 0 in every byte the engine sends. -/
def FUNCTION_8BIT : Byte := 0x10
/-- The number-of-lines bit. -/
def FUNCTION_2LINES : Byte := 0x08
def FUNCTION_RESET : Byte := FUNCTION ||| FUNCTION_8BIT
def CGRAM : Byte := 0x40
def DDRAM : Byte := 0x80

/-- `bits` where the condition holds, else no bit. -/
def bitsIf (c : Bool) (bits : Byte) : Byte := if c then bits else 0

/-- EncClear (40_command_encoder.md R80). -/
def encClear : List Byte := [CLR, HOME]

/-- EncEntryMode (40_command_encoder.md R81). -/
def encEntryMode : Byte := ENTRY_MODE ||| INC

/-- EncDisplayControl (40_command_encoder.md R82, 30_encoding.md R65). -/
def encDisplayControl (d c b : Bool) : Byte :=
  ON_CTRL ||| bitsIf d DISPLAY ||| bitsIf c CURSOR ||| bitsIf b BLINK

/-- EncDDRAM (40_command_encoder.md R83). -/
def encDdram (addr : BitVec 7) : Byte := DDRAM ||| addr.setWidth 8

/-- EncCGRAM (40_command_encoder.md R84): any natural slot, taken modulo 8. -/
def encCgram (slot : Nat) : Byte := CGRAM ||| (BitVec.ofNat 8 (slot % 8) <<< 3)

/-- The function-set byte with the number-of-lines bit as given (30_encoding.md R68). -/
def functionSetByte (twoLines : Bool) : Byte := FUNCTION ||| bitsIf twoLines FUNCTION_2LINES

/-- EncFunctionSet (40_command_encoder.md R85). -/
def encFunctionSet (numLines : Nat) : Byte := functionSetByte (decide (1 < numLines))

/-- The two kinds of initialization nibble (40_command_encoder.md R86). -/
inductive InitNibbleKind where
  | reset
  | fourBit
  deriving DecidableEq, Repr

/-- The high nibble of a byte, `v[7:4]`. -/
def highNibble (v : Byte) : Nibble := v.extractLsb' 4 4

/-- The low nibble of a byte, `v[3:0]`. -/
def lowNibble (v : Byte) : Nibble := v.extractLsb' 0 4

/-- EncInitNibble (40_command_encoder.md R86). -/
def encInitNibble : InitNibbleKind → Nibble
  | .reset => highNibble FUNCTION_RESET
  | .fourBit => highNibble FUNCTION

/-- The expander byte: data nibble, backlight, E, RW = 0, RS (30_encoding.md R72, R73). -/
def expanderBits (n : Nibble) (bl e rs : Bool) : Byte :=
  n ++ BitVec.ofBool bl ++ BitVec.ofBool e ++ 0#1 ++ BitVec.ofBool rs

/-- The byte that drives only the backlight line, E = 0 (30_encoding.md R75). -/
def backlightBits (bl : Bool) : Byte := expanderBits 0 bl false false

/-- The idle byte of power-up (30_encoding.md R75). -/
def IDLE : Byte := 0x00

end Sys2Proof.Machine
end

