-- ==== Sys2Proof/Config.lean ====
section
/-! DEFINITION. What the engine is configured with at reset (00_scope.md R8), and the free values of its environment
(00_scope.md R6, R10: every bus responder answer and the real course of each delay). -/

namespace Sys2Proof

/-- The configuration parameters of 00_scope.md R8. -/
structure Params where
  /-- NUM_LINES_CFG, before the clamp -/
  lines     : Nat
  /-- NUM_COLS_CFG, before the clamp -/
  columns   : Nat
  /-- I2C_ADDR -/
  i2cAddr   : BitVec 7
  /-- INIT_BACKLIGHT -/
  backlight : Bool
  /-- INIT_CURSOR -/
  cursor    : Bool
  /-- INIT_BLINK -/
  blink     : Bool
  deriving DecidableEq, Repr, Inhabited

/-- PARAMETER: which numbers stand for a fault value of the responder in use (10_state.md R29; 92_eei_decisions.md D29: OPEN). -/
opaque Config.isFaultValue : Nat → Bool

/-- The bus responder's fault value, passed on unchanged and looked at by nothing (60_exceptions.md R132). Its type is the parameter
of 10_state.md R29: the numbers that the opaque `Config.isFaultValue` admits, and 0, so that there is one. DESIGN CHOICE, safe: the
values are numbered (log entry 3). -/
structure BusFault where
  number : Nat
  legal  : number = 0 ∨ Config.isFaultValue number = true
  deriving DecidableEq, Repr

/-- How a bus write ends: taken, failed (42_nibble_transport.md R100), or overtaken by a reset (70_reset_and_hazards.md R150). -/
inductive BusAnswer where
  | ok
  | fault (e : BusFault)
  | reset (p : Params)
  deriving DecidableEq, Repr, Inhabited

/-- How a delay ends: after at least the requested time (70_reset_and_hazards.md R168), or overtaken by a reset (R150). -/
inductive DelayEnd where
  | elapsed
  | reset (p : Params)
  deriving DecidableEq, Repr, Inhabited

/-- FREE VALUE: the responder's answer to the n-th bus write (92_eei_decisions.md D29, 93 U3; log entry 1). -/
opaque Config.busAnswer : Nat → BusAnswer

/-- FREE VALUE: the end of the n-th delay (92_eei_decisions.md D12, D30, 93 U12, U13; log entry 2). -/
opaque Config.delayEnd : Nat → DelayEnd

/-- The parameters State.reset is built with. DESIGN CHOICE, unsafe: the document gives no default but the bus address
(00_scope.md R8), so these are the parameters of the "READY 2x16" of 95_test_vectors.md (log entry 4). Statements about reset
are made for all parameters. -/
def Config.params : Params :=
  { lines := 2, columns := 16, i2cAddr := 0x27#7, backlight := true, cursor := false, blink := false }

end Sys2Proof
end

