-- ==== Sys2Proof/Machine/Geometry.lean ====
section
/-! DEFINITION. The display geometry: limits, clamp and domain of the parameters (00_scope.md R8, R9). -/

namespace Sys2Proof.Machine

/-- MAX_LINES (00_scope.md R8). -/
def MAX_LINES : Nat := 4

/-- MAX_COLS (00_scope.md R8). -/
def MAX_COLS : Nat := 40

/-- The effective line count: clamped, not rejected (00_scope.md R9). -/
def clampLines (p : Params) : BitVec 3 := BitVec.ofNat 3 (min p.lines MAX_LINES)

/-- The effective column count: clamped, not rejected (00_scope.md R9). -/
def clampColumns (p : Params) : BitVec 6 := BitVec.ofNat 6 (min p.columns MAX_COLS)

/-- The parameters are within their domains: at least one line and one column (00_scope.md R8, R9). -/
def paramsValid (p : Params) : Bool := decide (1 ≤ p.lines) && decide (1 ≤ p.columns)

end Sys2Proof.Machine
end

