-- ==== Sys2Proof/Syntax.lean ====
section
/-! DEFINITION. One constructor for every row of spec/opcode_table.json, and the forms in which the rows are written down:
operation frames (30_encoding.md, Part A) and the words of Parts B and C. -/

namespace Sys2Proof

/-- The rows of the opcode table, in its order. -/
inductive Instr where
  -- Part A: the operations a host presents (30_encoding.md R57)
  | clear
  | cursorOn
  | cursorOff
  | blinkOn
  | blinkOff
  | displayOn
  | displayOff
  | backlightOn
  | backlightOff
  /-- `save` is the header's S flag (30_encoding.md R56, R61). -/
  | move (save : Bool) (row : BitVec 2) (col : BitVec 6)
  | putc (ch : Byte)
  /-- The payload is the text; LEN is its length (30_encoding.md R59). -/
  | puts (text : List Byte)
  | putsAt (row : BitVec 2) (col : BitVec 6) (text : List Byte)
  /-- `slot8` is the slot before the modulo-8 wrap; the payload is the bitmap (30_encoding.md R56, R59). -/
  | glyph (slot8 : Byte) (bitmap : List Byte)
  -- Part A: the reserved opcodes, with the 28 header bits below the opcode (30_encoding.md R62)
  | reservedD (rest : BitVec 28)
  | reservedE (rest : BitVec 28)
  | reservedF (rest : BitVec 28)
  -- Part B: the command bytes the CommandEncoder makes (30_encoding.md R64 to R71)
  | cmdClr
  | cmdHome
  | cmdEntryModeInc
  | cmdDisplayControl (d c b : Bool)
  | cmdFunctionSet (n : Bool)
  | cmdCgramAddr (slot : BitVec 3)
  | cmdDdramAddr (addr : BitVec 7)
  -- Part B: data bytes and initialization nibbles (30_encoding.md R76, R69)
  | dataByte (d : Byte)
  | initNibbleReset
  | initNibbleFunction
  -- Part C: the expander bytes (30_encoding.md R72 to R75)
  | expanderNibbleByte (nibble : Nibble) (bl e rs : Bool)
  | expanderIdle
  | expanderBacklight (bl : Bool)
  deriving DecidableEq, Repr

/-- An operation frame as it stands on the operation port (30_encoding.md R55). -/
structure Frame where
  header  : BitVec 32
  payload : List Byte
  deriving DecidableEq, Repr

/-- A word of Parts B and C of 30_encoding.md, under the name of the format the opcode table gives its row. Two formats can hold
the same bits; which of them a word belongs to is known from where it is sent, so it is part of the word here. -/
inductive BusWord where
  | command (b : Byte)
  | data (b : Byte)
  | initNibble (n : Nibble)
  | nibbleByte (b : Byte)
  | idleByte (b : Byte)
  | backlightByte (b : Byte)
  deriving DecidableEq, Repr

/-- The encoded form of an instruction. -/
inductive Code where
  | frame (f : Frame)
  | word (w : BusWord)
  deriving DecidableEq, Repr

end Sys2Proof
end

