-- ==== Sys2Proof/Machine/State.lean ====
section
/-! DEFINITION. The engine's state (10_state.md), the ports as plain data, the reasons a step can stop, and the state after
reset (10_state.md R34). -/

namespace Sys2Proof.Machine

/-- A cursor position (10_state.md R21): 2 bits of row, 6 bits of column. -/
structure Pos where
  row : BitVec 2
  col : BitVec 6
  deriving DecidableEq, Repr

/-- The states of the initialization machine (10_state.md R27). -/
inductive Phase where
  | uninit
  | powerUp
  | modeReset1
  | modeReset2
  | modeReset3
  | fourBit
  | configured
  | ready
  | initFailed
  deriving DecidableEq, Repr

/-- S.status (10_state.md R29). -/
inductive Status where
  | ok
  | fault (e : BusFault)
  deriving DecidableEq, Repr

/-- The reasons a frame is refused (60_exceptions.md R134). -/
inductive Reason where
  | illegalEncoding
  | outOfRange
  | notReady
  deriving DecidableEq, Repr

/-- What the host gets back for a frame: S.status when the operation completes (10_state.md R37), or the reason of the refusal
(60_exceptions.md R134). -/
inductive Reply where
  | completed (st : Status)
  | refused (r : Reason)
  deriving DecidableEq, Repr

/-- A trace event (00_scope.md R13): `W(b)`, here with the bus address it went to, or `D(ms)`. -/
inductive Event where
  | write (addr : BitVec 7) (b : Byte)
  | delay (ms : Nat)
  deriving DecidableEq, Repr

/-- The bus port's responder: answers fixed in advance, and how many writes have been made. Once no fixed answer is left, the
answer is the free value `Config.busAnswer` of that count. The MODEL's own field (log entry 1). -/
structure BusPort where
  answers : List BusAnswer
  count   : Nat
  deriving DecidableEq, Repr

/-- The delay port: ends fixed in advance, and how many delays have been made; then the free value `Config.delayEnd`. The MODEL's
own field (log entry 2). -/
structure DelayPort where
  ends  : List DelayEnd
  count : Nat
  deriving DecidableEq, Repr

/-- The steps of the base initializer that are bodies of public operations (70_reset_and_hazards.md R154). -/
inductive InitBody where
  | displayOff
  | backlightOn
  | clear
  | cursorOff
  | displayOn
  deriving DecidableEq, Repr

/-- One statement of the initialization sequence (70_reset_and_hazards.md R151 to R155): send a word of Parts B or C, wait, run an
operation's body, or enter the next phase. -/
inductive Stmt where
  | send (w : BusWord)
  | wait (ms : Nat)
  | body (b : InitBody)
  | enter (p : Phase)
  deriving DecidableEq, Repr

/-- Everything the spec gives the engine (10_state.md, section 1) and its ports (10_state.md R37). -/
structure State where
  /-- S.numLines (10_state.md R20) -/
  numLines   : BitVec 3
  /-- S.numColumns (10_state.md R20) -/
  numColumns : BitVec 6
  /-- I2C_ADDR, fixed until the next reset (00_scope.md R8) -/
  i2cAddr    : BitVec 7
  /-- S.cur (10_state.md R21) -/
  cur        : Pos
  /-- S.saved (10_state.md R22) -/
  saved      : Pos
  /-- S.backlight (10_state.md R24) -/
  backlight  : Bool
  /-- S.display (10_state.md R24) -/
  display    : Bool
  /-- S.cursor (10_state.md R24) -/
  cursor     : Bool
  /-- S.blink (10_state.md R24) -/
  blink      : Bool
  /-- S.phase (10_state.md R27) -/
  phase      : Phase
  /-- S.status (10_state.md R29) -/
  status     : Status
  /-- S.faultSeen (10_state.md R28) -/
  faultSeen  : Bool
  /-- S.refused (10_state.md R28) -/
  refused    : Bool
  /-- The statements of the current initialization phase still to run; empty stands for all of them (log entry 13). -/
  seq        : List Stmt
  /-- The operation port: the frame presented now and those the host presents after it (10_state.md R37, log entry 6). -/
  frames     : List Frame
  /-- The host's reset input, with its parameters (70_reset_and_hazards.md R150, log entry 6). -/
  resetReq   : Option Params
  /-- The bus port (10_state.md R38). -/
  bus        : BusPort
  /-- The delay port (10_state.md R38). -/
  timer      : DelayPort
  /-- The trace of bus writes and delays, oldest first (00_scope.md R13). -/
  trace      : List Event
  /-- What the status port has returned, oldest first (10_state.md R37, log entry 11). -/
  replies    : List Reply
  deriving DecidableEq, Repr

/-- Reasons the machine stops with a fault. There is none: a TransportFault is a next state with the fault recorded
(60_exceptions.md R130, R137), and nothing else faults. Safe. -/
inductive Fault where
  deriving DecidableEq, Repr

/-- Reasons a step has no meaning. -/
inductive Refusal where
  /-- Raised by a refused arm of exec only, for an instruction without a meaning; no arm is refused. Safe. -/
  | notModelled (mnemonic : String)
  /-- Raised by a reset whose parameters ask for 0 lines or 0 columns: the configuration is refused (00_scope.md R9). Safe. -/
  | zeroGeometry
  /-- Raised by the fetch for a frame whose payload is not of the length its header fixes: not a frame, a host duty broken
  (30_encoding.md R55, R60; 00_scope.md R7; log entry 9). Safe. -/
  | payloadLength
  /-- Raised by the fetch for a statement that would send a word outside Parts B and C; no run reaches one (log entry 14). Safe. -/
  | notABusWord
  deriving DecidableEq, Repr

/-- The machine right after reset is released (10_state.md R34): phase POWERUP, nothing sent yet. The parameters are those of
`Config.params` (log entry 4); `reset_eq_released` in Laws shows it equal to loading them and releasing reset. -/
def State.reset : State where
  numLines := clampLines Config.params
  numColumns := clampColumns Config.params
  i2cAddr := Config.params.i2cAddr
  cur := ⟨0, 0⟩
  saved := ⟨0, 0⟩
  backlight := Config.params.backlight
  display := false
  cursor := Config.params.cursor
  blink := Config.params.blink
  phase := .powerUp
  status := .ok
  faultSeen := false
  refused := false
  seq := []
  frames := []
  resetReq := none
  bus := ⟨[], 0⟩
  timer := ⟨[], 0⟩
  trace := []
  replies := []

end Sys2Proof.Machine
end

