-- ==== Sys2Proof/Machine/Ops.lean ====
section
/-! DEFINITION. The named operations on the state: updates of one register, the two primitives that talk to the outside
(00_scope.md R13), sequencing (00_scope.md R15), taking a TransportFault (60_exceptions.md R137, R148), refusing (R134), holding
(R135) and reset (70_reset_and_hazards.md R150). -/

namespace Sys2Proof.Machine

/-! Updates. -/

def State.setCur (s : State) (p : Pos) : State := { s with cur := p }
def State.setSaved (s : State) (p : Pos) : State := { s with saved := p }
def State.setBacklight (s : State) (v : Bool) : State := { s with backlight := v }
def State.setDisplay (s : State) (v : Bool) : State := { s with display := v }
def State.setCursor (s : State) (v : Bool) : State := { s with cursor := v }
def State.setBlink (s : State) (v : Bool) : State := { s with blink := v }
def State.setPhase (s : State) (p : Phase) : State := { s with phase := p }
def State.setSeq (s : State) (q : List Stmt) : State := { s with seq := q }
def State.setFrames (s : State) (fs : List Frame) : State := { s with frames := fs }

/-- S.status <- st, and nothing else (10_state.md R29). -/
def State.setStatus (s : State) (st : Status) : State := { s with status := st }

/-- Return something on the status port (10_state.md R37). -/
def State.reply (s : State) (r : Reply) : State := { s with replies := s.replies ++ [r] }

/-! The ports. -/

/-- The answer the i-th write from now gets. -/
def BusPort.peek (p : BusPort) (i : Nat) : BusAnswer := (p.answers[i]?).getD (Config.busAnswer (p.count + i))

/-- The port after n writes. -/
def BusPort.advance (p : BusPort) (n : Nat) : BusPort := ⟨p.answers.drop n, p.count + n⟩

/-- How the i-th delay from now ends. -/
def DelayPort.peek (p : DelayPort) (i : Nat) : DelayEnd := (p.ends[i]?).getD (Config.delayEnd (p.count + i))

/-- The port after n delays. -/
def DelayPort.advance (p : DelayPort) (n : Nat) : DelayPort := ⟨p.ends.drop n, p.count + n⟩

/-- The event `W(b)` to the device I2C_ADDR (42_nibble_transport.md R100, 20_memory.md R40). -/
def State.recordWrite (s : State) (b : Byte) : State :=
  { s with trace := s.trace ++ [.write s.i2cAddr b], bus := s.bus.advance 1 }

/-- The event `D(ms)` (00_scope.md R13). -/
def State.recordDelay (s : State) (ms : Nat) : State :=
  { s with trace := s.trace ++ [.delay ms], timer := s.timer.advance 1 }

/-! Running statements. -/

/-- How a piece of a body ends: at its end, at a failing write (00_scope.md R14), or cut off by a reset while it waits
(70_reset_and_hazards.md R150). -/
inductive Run where
  | done (s : State)
  | raised (e : BusFault) (s : State)
  | cut (p : Params) (s : State)
  deriving DecidableEq, Repr

/-- Statements in order (00_scope.md R15): the second runs only where the first reached its end. -/
def Run.andThen : Run → (State → Run) → Run
  | .done s, k => k s
  | .raised e s, _ => .raised e s
  | .cut p s, _ => .cut p s

/-- The state a run leaves, however it ended. -/
def Run.state : Run → State
  | .done s => s
  | .raised _ s => s
  | .cut _ s => s

/-- A statement block, run one after the other (00_scope.md R15). -/
def doAll : List (State → Run) → State → Run
  | [], s => .done s
  | a :: rest, s => (a s).andThen (doAll rest)

/-- A statement that only writes state. -/
def change (f : State → State) (s : State) : Run := .done (f s)

/-- BusWrite(b) (42_nibble_transport.md R100): the event is recorded whether or not the write fails. -/
def busWrite (b : Byte) (s : State) : Run :=
  match s.bus.peek 0 with
  | .ok => .done (s.recordWrite b)
  | .fault e => .raised e (s.recordWrite b)
  | .reset p => .cut p (s.recordWrite b)

/-- Delay(ms) (00_scope.md R13, 70_reset_and_hazards.md R168). DESIGN CHOICE, unsafe: a delay that a reset overtakes has its event
`D(ms)` in the trace too, although its time may not have passed (log entry 28). -/
def delay (ms : Nat) (s : State) : Run :=
  match s.timer.peek 0 with
  | .elapsed => .done (s.recordDelay ms)
  | .reset p => .cut p (s.recordDelay ms)

/-! Outcomes. -/

/-- The phase a TransportFault leaves: INIT_FAILED from the initialization phases, otherwise the same (70_reset_and_hazards.md
R158, 60_exceptions.md R137, R148). -/
def Phase.afterFault : Phase → Phase
  | .powerUp | .modeReset1 | .modeReset2 | .modeReset3 | .fourBit | .configured => .initFailed
  | .uninit => .uninit
  | .ready => .ready
  | .initFailed => .initFailed

/-- TAKING AN EXCEPTION: what a TransportFault does to the state the statements before it left (60_exceptions.md R137, R148).
Nothing else is saved and there is no return operation (60_exceptions.md R139). -/
def takeFault (e : BusFault) (s : State) : State :=
  { s with status := .fault e, faultSeen := true, phase := s.phase.afterFault, seq := [] }

/-- A reset has come while the engine waits: what is in progress is abandoned, and the reset is taken next
(70_reset_and_hazards.md R150, log entry 7). -/
def abandon (p : Params) (s : State) : State := { s with resetReq := some p }

/-- Refusing a frame: the ghost bit, and nothing of the architecture (60_exceptions.md R134). -/
def State.refuse (s : State) (r : Reason) : State :=
  { s with refused := true, replies := s.replies ++ [.refused r] }

/-- The end of a statement of the engine's own sequence: no status is written unless a fault is taken. -/
def Run.finished : Run → State
  | .done s => s
  | .raised e s => takeFault e s
  | .cut p s => abandon p s

/-- The end of an operation's body (43_driver_ops.md R110): status written and returned. An abandoned operation returns none
(70_reset_and_hazards.md R150). -/
def Run.completed : Run → State
  | .done s => (s.setStatus .ok).reply (.completed .ok)
  | .raised e s => (takeFault e s).reply (.completed (.fault e))
  | .cut p s => abandon p s

/-- A statement of the engine's own sequence always leaves a next state. -/
def finish (r : Run) : Host.Outcome State Fault Refusal := .next r.finished

/-- An operation always leaves a next state: a TransportFault is one (60_exceptions.md R130). -/
def complete (r : Run) : Host.Outcome State Fault Refusal := .next r.completed

/-- What the phase says to a frame (43_driver_ops.md R110). -/
inductive Gate where
  | hold
  | closed
  | opened
  deriving DecidableEq, Repr

/-- Held before READY, refused in INIT_FAILED, run in READY (43_driver_ops.md R110, 60_exceptions.md R134, R135). -/
def Phase.gate : Phase → Gate
  | .ready => .opened
  | .initFailed => .closed
  | .uninit | .powerUp | .modeReset1 | .modeReset2 | .modeReset3 | .fourBit | .configured => .hold

/-- Execute (43_driver_ops.md R110): phase, then range, then the body. A held operation changes nothing; the engine's own progress
is made by step (log entry 12). The encoding has been checked by the decoder. -/
def execute (inRange : State → Bool) (body : State → Run) (s : State) : Host.Outcome State Fault Refusal :=
  match s.phase.gate with
  | .hold => .next s
  | .closed => .next (s.refuse .notReady)
  | .opened => if inRange s then complete (body s) else .next (s.refuse .outOfRange)

/-- Execute on a frame that is no operation (43_driver_ops.md R110, 30_encoding.md R62): phase first, then the encoding. -/
def executeIllegal (s : State) : Host.Outcome State Fault Refusal :=
  match s.phase.gate with
  | .hold => .next s
  | .closed => .next (s.refuse .notReady)
  | .opened => .next (s.refuse .illegalEncoding)

/-! Reset. -/

/-- Reset held with parameters: every element takes its value of 10_state.md R34, phase UNINIT, no event
(70_reset_and_hazards.md R150). The trace, the ports and the returned statuses are the record of what has been, not state of the
engine, and stay. -/
def load (p : Params) (s : State) : State :=
  { s with
    numLines := clampLines p
    numColumns := clampColumns p
    i2cAddr := p.i2cAddr
    cur := ⟨0, 0⟩
    saved := ⟨0, 0⟩
    backlight := p.backlight
    display := false
    cursor := p.cursor
    blink := p.blink
    phase := .uninit
    status := .ok
    faultSeen := false
    refused := false
    seq := []
    resetReq := none }

/-- Reset asserted (70_reset_and_hazards.md R150); a configuration of zero lines or columns is refused (00_scope.md R9). -/
def assertReset (p : Params) (s : State) : Host.Outcome State Fault Refusal :=
  if paramsValid p then .next (load p s) else .refused .zeroGeometry

/-- Reset released: initialization begins (70_reset_and_hazards.md R150, R158). -/
def release (s : State) : State := s.setPhase .powerUp

/-- The state after reset with the given parameters, the record and the ports of `s` kept. -/
def State.resetWith (s : State) (p : Params) : State := release (load p s)

end Sys2Proof.Machine
end

