-- ==== Sys2Proof/Machine/Transport.lean ====
section
/-! DEFINITION. The NibbleTransport over the I2C expander (42_nibble_transport.md). No function retries, and none hides a fault
(42_nibble_transport.md R109). -/

namespace Sys2Proof.Machine

/-- ExpanderByte (42_nibble_transport.md R101): the backlight bit is the flag's value now. -/
def State.expanderByte (s : State) (n : Nibble) (rs e : Bool) : Byte := expanderBits n s.backlight e rs

/-- WriteNibble (42_nibble_transport.md R102): E asserted, then the same with E deasserted. -/
def writeNibble (n : Nibble) (rs : Bool) : State → Run :=
  doAll [fun s => busWrite (s.expanderByte n rs true) s, fun s => busWrite (s.expanderByte n rs false) s]

/-- SendByte (42_nibble_transport.md R103): the high nibble first. -/
def sendByte (v : Byte) (rs : Bool) : State → Run :=
  doAll [writeNibble (highNibble v) rs, writeNibble (lowNibble v) rs]

/-- The settle delay: 5 ms after a command of value at most 3 (42_nibble_transport.md R108). -/
def settle (cmd : Byte) (s : State) : Run := if cmd.toNat ≤ 3 then delay 5 s else .done s

/-- WriteCommand (42_nibble_transport.md R104). -/
def writeCommand (cmd : Byte) : State → Run := doAll [sendByte cmd false, settle cmd]

/-- WriteData (42_nibble_transport.md R105): never a delay. -/
def writeData (d : Byte) : State → Run := sendByte d true

/-- WriteInitNibble (42_nibble_transport.md R106): the backlight bit is 0 whatever the flag holds. -/
def writeInitNibble (n : Nibble) : State → Run :=
  doAll [busWrite (expanderBits n false true false), busWrite (expanderBits n false false false)]

/-- WriteBacklight (42_nibble_transport.md R107). -/
def writeBacklight (s : State) : Run := busWrite (backlightBits s.backlight) s

end Sys2Proof.Machine
end

