-- ==== Sys2Proof/Machine/Flags.lean ====
section
/-! DEFINITION. The controller flags: the packed view and the one command that carries display, cursor and blink together
(10_state.md R24 to R26). -/

namespace Sys2Proof.Machine

/-- FLAGS[3:0] = backlight, display, cursor, blink (10_state.md R26). -/
def State.flags (s : State) : BitVec 4 :=
  BitVec.ofBool s.backlight ++ BitVec.ofBool s.display ++ BitVec.ofBool s.cursor ++ BitVec.ofBool s.blink

/-- UpdateDisplayControl (43_driver_ops.md R111): the three flags as they stand. -/
def updateDisplayControl (s : State) : Run := writeCommand (encDisplayControl s.display s.cursor s.blink) s

end Sys2Proof.Machine
end

