-- ==== Sys2Proof/Machine/Cursor.lean ====
section
/-! DEFINITION. CursorState and the cursor address encoder (41_cursor_state.md). -/

namespace Sys2Proof.Machine

/-- DisplayAddress (41_cursor_state.md R90): a 7-bit sum. -/
def displayAddress (row : BitVec 2) (col : BitVec 6) : BitVec 7 :=
  (col &&& 0x3F).setWidth 7 + (if row.getLsbD 0 then 0x40 else 0) + (if row.getLsbD 1 then 0x14 else 0)

/-- The DDRAM address of a position. -/
def Pos.address (p : Pos) : BitVec 7 := displayAddress p.row p.col

/-- The position CLEAR and reset leave (10_state.md R34, 43_driver_ops.md R113). -/
def homePos : Pos := ⟨0, 0⟩

/-- moveTo (41_cursor_state.md R91). -/
def moveTo (p : Pos) (s : State) : State := s.setCur p

/-- The row after `r`, wrapping to 0 after the last line (41_cursor_state.md R92, R93). -/
def nextRow (numLines : BitVec 3) (r : BitVec 2) : BitVec 2 :=
  if r.toNat + 1 = numLines.toNat then 0 else BitVec.ofNat 2 (r.toNat + 1)

/-- newline (41_cursor_state.md R93). It always wraps. -/
def newline (s : State) : State := s.setCur ⟨nextRow s.numLines s.cur.row, 0⟩

/-- The next column is past the last one (41_cursor_state.md R92: WRAPPED). -/
def atLastColumn (s : State) : Bool := s.cur.col.toNat + 1 == s.numColumns.toNat

/-- advance (41_cursor_state.md R92), with what it returns: `true` is WRAPPED. -/
def advance (s : State) : Bool × State :=
  if atLastColumn s then (true, newline s)
  else (false, s.setCur ⟨s.cur.row, BitVec.ofNat 6 (s.cur.col.toNat + 1)⟩)

/-- saveAndMove (41_cursor_state.md R94). -/
def saveAndMove (p : Pos) (s : State) : State := (s.setSaved s.cur).setCur p

/-- restore (41_cursor_state.md R95). -/
def restore (s : State) : State := s.setCur s.saved

end Sys2Proof.Machine
end

