-- ==== Sys2Proof/Machine/Operands.lean ====
section
/-! DEFINITION. The operands of the operations (30_encoding.md R61): the range check of coordinates and the two special codes.
The other operands are fields as the decoder gives them, with no sign, scale or shift. -/

namespace Sys2Proof.Machine

/-- The newline character (92_eei_decisions.md D17, 41_cursor_state.md R93). -/
def NEWLINE : Byte := 0x0A

/-- Row and column lie within the geometry (43_driver_ops.md R110, 60_exceptions.md R134). -/
def inRange (row : BitVec 2) (col : BitVec 6) (s : State) : Bool :=
  decide (row.toNat < s.numLines.toNat) && decide (col.toNat < s.numColumns.toNat)

/-- The check of an operation without coordinates. -/
def noCoordinates (_ : State) : Bool := true

end Sys2Proof.Machine
end

