-- ==== Sys2Proof/Machine/Bodies.lean ====
section
/-! DEFINITION. The bodies of the public operations (43_driver_ops.md R112 to R126), statement by statement: the order is part of
the rule (92_eei_decisions.md D13). -/

namespace Sys2Proof.Machine

/-- Readdress (43_driver_ops.md R112). -/
def readdress (s : State) : Run := writeCommand (encDdram s.cur.address) s

/-- CLEAR (43_driver_ops.md R113): the cursor is written last. -/
def bodyClear : State → Run :=
  doAll [doAll (encClear.map writeCommand), change (moveTo homePos)]

/-- CURSOR_ON and CURSOR_OFF (43_driver_ops.md R114, R115). -/
def bodyCursor (v : Bool) : State → Run := doAll [change (·.setCursor v), updateDisplayControl]

/-- BLINK_ON and BLINK_OFF (43_driver_ops.md R116, R117). -/
def bodyBlink (v : Bool) : State → Run := doAll [change (·.setBlink v), updateDisplayControl]

/-- DISPLAY_ON and DISPLAY_OFF (43_driver_ops.md R118, R119). -/
def bodyDisplay (v : Bool) : State → Run := doAll [change (·.setDisplay v), updateDisplayControl]

/-- BACKLIGHT_ON and BACKLIGHT_OFF (43_driver_ops.md R120, R121). -/
def bodyBacklight (v : Bool) : State → Run := doAll [change (·.setBacklight v), writeBacklight]

/-- MOVE (43_driver_ops.md R122). -/
def bodyMove (save : Bool) (p : Pos) : State → Run :=
  doAll [change (if save then saveAndMove p else moveTo p), readdress]

/-- The end of PUTC on a data byte: advance, and re-address where it wrapped (43_driver_ops.md R123). -/
def advanceAndReaddress (s : State) : Run :=
  match advance s with
  | (true, t) => readdress t
  | (false, t) => .done t

/-- PUTC (43_driver_ops.md R123). -/
def bodyPutc (ch : Byte) : State → Run :=
  if ch = NEWLINE then doAll [change newline, readdress] else doAll [writeData ch, advanceAndReaddress]

/-- PUTS, F = 0 (43_driver_ops.md R124). -/
def bodyPuts (text : List Byte) : State → Run := doAll (text.map bodyPutc)

/-- PUTS, F = 1 (43_driver_ops.md R125). -/
def bodyPutsAt (p : Pos) (text : List Byte) : State → Run :=
  doAll [change (saveAndMove p), readdress, bodyPuts text, change restore, readdress]

/-- GLYPH (43_driver_ops.md R126). -/
def bodyGlyph (slot8 : Byte) (bitmap : List Byte) : State → Run :=
  doAll [writeCommand (encCgram slot8.toNat), doAll (bitmap.map writeData), readdress]

end Sys2Proof.Machine
end

