-- ==== Sys2Proof/Machine/Operations.lean ====
section
/-! DEFINITION. The meanings of the operation frames (43_driver_ops.md R110 to R126) and of the reserved opcodes
(30_encoding.md R62). -/

namespace Sys2Proof.Machine

/-- CLEAR (43_driver_ops.md R113). -/
def execClear (s : State) : Host.Outcome State Fault Refusal := execute noCoordinates bodyClear s

/-- CURSOR_ON (43_driver_ops.md R114). -/
def execCursorOn (s : State) : Host.Outcome State Fault Refusal := execute noCoordinates (bodyCursor true) s

/-- CURSOR_OFF (43_driver_ops.md R115). -/
def execCursorOff (s : State) : Host.Outcome State Fault Refusal := execute noCoordinates (bodyCursor false) s

/-- BLINK_ON (43_driver_ops.md R116). -/
def execBlinkOn (s : State) : Host.Outcome State Fault Refusal := execute noCoordinates (bodyBlink true) s

/-- BLINK_OFF (43_driver_ops.md R117). -/
def execBlinkOff (s : State) : Host.Outcome State Fault Refusal := execute noCoordinates (bodyBlink false) s

/-- DISPLAY_ON (43_driver_ops.md R118). -/
def execDisplayOn (s : State) : Host.Outcome State Fault Refusal := execute noCoordinates (bodyDisplay true) s

/-- DISPLAY_OFF (43_driver_ops.md R119). -/
def execDisplayOff (s : State) : Host.Outcome State Fault Refusal := execute noCoordinates (bodyDisplay false) s

/-- BACKLIGHT_ON (43_driver_ops.md R120). -/
def execBacklightOn (s : State) : Host.Outcome State Fault Refusal := execute noCoordinates (bodyBacklight true) s

/-- BACKLIGHT_OFF (43_driver_ops.md R121). -/
def execBacklightOff (s : State) : Host.Outcome State Fault Refusal := execute noCoordinates (bodyBacklight false) s

/-- MOVE (43_driver_ops.md R122). -/
def execMove (save : Bool) (row : BitVec 2) (col : BitVec 6) (s : State) : Host.Outcome State Fault Refusal :=
  execute (inRange row col) (bodyMove save ⟨row, col⟩) s

/-- PUTC (43_driver_ops.md R123). -/
def execPutc (ch : Byte) (s : State) : Host.Outcome State Fault Refusal := execute noCoordinates (bodyPutc ch) s

/-- PUTS with F = 0 (43_driver_ops.md R124). -/
def execPuts (text : List Byte) (s : State) : Host.Outcome State Fault Refusal := execute noCoordinates (bodyPuts text) s

/-- PUTS with F = 1 (43_driver_ops.md R125). -/
def execPutsAt (row : BitVec 2) (col : BitVec 6) (text : List Byte) (s : State) : Host.Outcome State Fault Refusal :=
  execute (inRange row col) (bodyPutsAt ⟨row, col⟩ text) s

/-- GLYPH (43_driver_ops.md R126). -/
def execGlyph (slot8 : Byte) (bitmap : List Byte) (s : State) : Host.Outcome State Fault Refusal :=
  execute noCoordinates (bodyGlyph slot8 bitmap) s

/-- OPC 0xD (30_encoding.md R62): refused IllegalEncoding. -/
def execReservedD (_rest : BitVec 28) (s : State) : Host.Outcome State Fault Refusal := executeIllegal s

/-- OPC 0xE (30_encoding.md R62): refused IllegalEncoding. -/
def execReservedE (_rest : BitVec 28) (s : State) : Host.Outcome State Fault Refusal := executeIllegal s

/-- OPC 0xF (30_encoding.md R62): refused IllegalEncoding. -/
def execReservedF (_rest : BitVec 28) (s : State) : Host.Outcome State Fault Refusal := executeIllegal s

end Sys2Proof.Machine
end

