-- ==== Sys2Proof/Machine/Words.lean ====
section
/-! DEFINITION. The meanings of the words of Parts B and C of 30_encoding.md: the engine's own statement that sends the word
(42_nibble_transport.md). They write no S.status unless a bus write fails (log entry 14). -/

namespace Sys2Proof.Machine

/-- CLR as a command (40_command_encoder.md R80), with its settle delay (42_nibble_transport.md R108). -/
def execCmdClr (s : State) : Host.Outcome State Fault Refusal := finish (writeCommand CLR s)

/-- HOME as a command (40_command_encoder.md R80), with its settle delay (42_nibble_transport.md R108). -/
def execCmdHome (s : State) : Host.Outcome State Fault Refusal := finish (writeCommand HOME s)

/-- The entry-mode command (40_command_encoder.md R81). -/
def execCmdEntryModeInc (s : State) : Host.Outcome State Fault Refusal := finish (writeCommand encEntryMode s)

/-- A display-control command (40_command_encoder.md R82). -/
def execCmdDisplayControl (d c b : Bool) (s : State) : Host.Outcome State Fault Refusal :=
  finish (writeCommand (encDisplayControl d c b) s)

/-- A function-set command (40_command_encoder.md R85). -/
def execCmdFunctionSet (n : Bool) (s : State) : Host.Outcome State Fault Refusal := finish (writeCommand (functionSetByte n) s)

/-- A CGRAM slot command (40_command_encoder.md R84). -/
def execCmdCgramAddr (slot : BitVec 3) (s : State) : Host.Outcome State Fault Refusal :=
  finish (writeCommand (encCgram slot.toNat) s)

/-- A DDRAM address command (40_command_encoder.md R83). -/
def execCmdDdramAddr (addr : BitVec 7) (s : State) : Host.Outcome State Fault Refusal := finish (writeCommand (encDdram addr) s)

/-- A data byte (42_nibble_transport.md R105). -/
def execDataByte (d : Byte) (s : State) : Host.Outcome State Fault Refusal := finish (writeData d s)

/-- The FUNCTION_RESET nibble (40_command_encoder.md R86, 42_nibble_transport.md R106). -/
def execInitNibbleReset (s : State) : Host.Outcome State Fault Refusal := finish (writeInitNibble (encInitNibble .reset) s)

/-- The FUNCTION nibble (40_command_encoder.md R86, 42_nibble_transport.md R106). -/
def execInitNibbleFunction (s : State) : Host.Outcome State Fault Refusal := finish (writeInitNibble (encInitNibble .fourBit) s)

/-- One expander byte of a nibble (30_encoding.md R72, 42_nibble_transport.md R100, R101). -/
def execExpanderNibbleByte (nibble : Nibble) (bl e rs : Bool) (s : State) : Host.Outcome State Fault Refusal :=
  finish (busWrite (expanderBits nibble bl e rs) s)

/-- The idle byte (30_encoding.md R75, 70_reset_and_hazards.md R151). -/
def execExpanderIdle (s : State) : Host.Outcome State Fault Refusal := finish (busWrite IDLE s)

/-- The backlight byte (30_encoding.md R75, 42_nibble_transport.md R107). -/
def execExpanderBacklight (bl : Bool) (s : State) : Host.Outcome State Fault Refusal := finish (busWrite (backlightBits bl) s)

end Sys2Proof.Machine
end

