-- ==== Sys2Proof/Machine/Dispatch.lean ====
section
/-! DEFINITION. exec: one arm for every row of spec/opcode_table.json. -/

namespace Sys2Proof.Machine

def exec (i : Instr) (s : State) : Host.Outcome State Fault Refusal :=
  match i with
  | .clear => Sys2Proof.Machine.execClear s
  | .cursorOn => Sys2Proof.Machine.execCursorOn s
  | .cursorOff => Sys2Proof.Machine.execCursorOff s
  | .blinkOn => Sys2Proof.Machine.execBlinkOn s
  | .blinkOff => Sys2Proof.Machine.execBlinkOff s
  | .displayOn => Sys2Proof.Machine.execDisplayOn s
  | .displayOff => Sys2Proof.Machine.execDisplayOff s
  | .backlightOn => Sys2Proof.Machine.execBacklightOn s
  | .backlightOff => Sys2Proof.Machine.execBacklightOff s
  | .move save row col => Sys2Proof.Machine.execMove save row col s
  | .putc ch => Sys2Proof.Machine.execPutc ch s
  | .puts text => Sys2Proof.Machine.execPuts text s
  | .putsAt row col text => Sys2Proof.Machine.execPutsAt row col text s
  | .glyph slot8 bitmap => Sys2Proof.Machine.execGlyph slot8 bitmap s
  | .reservedD rest => Sys2Proof.Machine.execReservedD rest s
  | .reservedE rest => Sys2Proof.Machine.execReservedE rest s
  | .reservedF rest => Sys2Proof.Machine.execReservedF rest s
  | .cmdClr => Sys2Proof.Machine.execCmdClr s
  | .cmdHome => Sys2Proof.Machine.execCmdHome s
  | .cmdEntryModeInc => Sys2Proof.Machine.execCmdEntryModeInc s
  | .cmdDisplayControl d c b => Sys2Proof.Machine.execCmdDisplayControl d c b s
  | .cmdFunctionSet n => Sys2Proof.Machine.execCmdFunctionSet n s
  | .cmdCgramAddr slot => Sys2Proof.Machine.execCmdCgramAddr slot s
  | .cmdDdramAddr addr => Sys2Proof.Machine.execCmdDdramAddr addr s
  | .dataByte d => Sys2Proof.Machine.execDataByte d s
  | .initNibbleReset => Sys2Proof.Machine.execInitNibbleReset s
  | .initNibbleFunction => Sys2Proof.Machine.execInitNibbleFunction s
  | .expanderNibbleByte nibble bl e rs => Sys2Proof.Machine.execExpanderNibbleByte nibble bl e rs s
  | .expanderIdle => Sys2Proof.Machine.execExpanderIdle s
  | .expanderBacklight bl => Sys2Proof.Machine.execExpanderBacklight bl s

end Sys2Proof.Machine
end

