-- ==== Sys2Proof/WellFormed.lean ====
section
/-! DEFINITION. Which instructions have an encoding: LEN has 8 bits, and a glyph has exactly 8 rows (30_encoding.md R56, R59). -/

namespace Sys2Proof

/-- The text fits the LEN field (30_encoding.md R56: 0..255). -/
abbrev textFits (text : List Byte) : Bool := decide (text.length ≤ 255)

/-- A glyph bitmap is 8 bytes (30_encoding.md R59). -/
abbrev bitmapFits (bitmap : List Byte) : Bool := decide (bitmap.length = 8)

/-- The instruction can be written as a frame or a word. -/
def Instr.wellFormed : Instr → Bool
  | .puts text => textFits text
  | .putsAt _ _ text => textFits text
  | .glyph _ bitmap => bitmapFits bitmap
  | .clear | .cursorOn | .cursorOff | .blinkOn | .blinkOff | .displayOn | .displayOff | .backlightOn | .backlightOff => true
  | .move _ _ _ | .putc _ | .reservedD _ | .reservedE _ | .reservedF _ => true
  | .cmdClr | .cmdHome | .cmdEntryModeInc | .cmdDisplayControl _ _ _ | .cmdFunctionSet _ => true
  | .cmdCgramAddr _ | .cmdDdramAddr _ | .dataByte _ | .initNibbleReset | .initNibbleFunction => true
  | .expanderNibbleByte _ _ _ _ | .expanderIdle | .expanderBacklight _ => true

end Sys2Proof
end

