-- ==== Sys2Proof/Decode.lean ====
section
/-! DEFINITION. Decoding, total on every frame and word and rejecting by name (30_encoding.md R55 to R62), and the encoder
written from the same tables. -/

namespace Sys2Proof

/-- Why a frame or a word is no instruction. -/
inductive DecodeError where
  /-- RSV1 or RSV2 is not 0 (30_encoding.md R62). -/
  | reservedFieldSet
  /-- A field the operation does not use is not 0 (30_encoding.md R58, R62). -/
  | unusedFieldSet
  /-- The payload is not of the length the header fixes, so this is no frame (30_encoding.md R55, R60). -/
  | payloadLength
  /-- No command byte of the engine (30_encoding.md R78). -/
  | notACommand
  /-- No initialization nibble (30_encoding.md R69). -/
  | notAnInitNibble
  /-- RW is set (30_encoding.md R73). -/
  | rwSet
  /-- Not the idle byte (30_encoding.md R75). -/
  | notIdle
  /-- Not a backlight byte (30_encoding.md R75). -/
  | notBacklight
  deriving DecidableEq, Repr

/-! Header fields (30_encoding.md R56). -/

def hdrOpc (h : BitVec 32) : BitVec 4 := h.extractLsb' 28 4
def hdrF (h : BitVec 32) : Bool := h.getLsbD 27
def hdrRsv1 (h : BitVec 32) : Bool := h.getLsbD 26
def hdrRow (h : BitVec 32) : BitVec 2 := h.extractLsb' 24 2
def hdrRsv2 (h : BitVec 32) : BitVec 2 := h.extractLsb' 22 2
def hdrCol (h : BitVec 32) : BitVec 6 := h.extractLsb' 16 6
def hdrLen (h : BitVec 32) : Byte := h.extractLsb' 8 8
def hdrLow (h : BitVec 32) : Byte := h.extractLsb' 0 8
/-- Everything below the opcode. -/
def hdrRest (h : BitVec 32) : BitVec 28 := h.extractLsb' 0 28

/-- Which of the six fields below the opcode an operation uses (30_encoding.md R58). -/
structure FieldUse where
  f   : Bool := false
  row : Bool := false
  col : Bool := false
  len : Bool := false
  low : Bool := false
  deriving DecidableEq, Repr

/-- Every field the operation does not use is 0 (30_encoding.md R58). -/
def unusedZero (u : FieldUse) (h : BitVec 32) : Bool :=
  (u.f || !hdrF h) && (u.row || hdrRow h == 0) && (u.col || hdrCol h == 0) && (u.len || hdrLen h == 0) && (u.low || hdrLow h == 0)

/-- The header checks of 30_encoding.md R62, then the payload's length (R60), then the instruction. -/
def checkedFrame (u : FieldUse) (payloadBytes : Nat) (f : Frame) (i : Instr) : Except DecodeError Instr :=
  if hdrRsv1 f.header || hdrRsv2 f.header != 0 then .error .reservedFieldSet
  else if !unusedZero u f.header then .error .unusedFieldSet
  else if f.payload.length != payloadBytes then .error .payloadLength
  else .ok i

/-- MOVE uses F, ROW and COL; PUTS with F = 1 uses LEN besides (30_encoding.md R58). -/
def moveUse : FieldUse := { f := true, row := true, col := true }
def putsAtUse : FieldUse := { f := true, row := true, col := true, len := true }

/-- The opcode map (30_encoding.md R57). A reserved opcode is an instruction of its own, refused when it runs. -/
def decodeFrame (f : Frame) : Except DecodeError Instr :=
  match (hdrOpc f.header).toNat with
  | 0x0 => checkedFrame {} 0 f .clear
  | 0x1 => checkedFrame {} 0 f .cursorOn
  | 0x2 => checkedFrame {} 0 f .cursorOff
  | 0x3 => checkedFrame {} 0 f .blinkOn
  | 0x4 => checkedFrame {} 0 f .blinkOff
  | 0x5 => checkedFrame {} 0 f .displayOn
  | 0x6 => checkedFrame {} 0 f .displayOff
  | 0x7 => checkedFrame {} 0 f .backlightOn
  | 0x8 => checkedFrame {} 0 f .backlightOff
  | 0x9 => checkedFrame moveUse 0 f (.move (hdrF f.header) (hdrRow f.header) (hdrCol f.header))
  | 0xA => checkedFrame { low := true } 0 f (.putc (hdrLow f.header))
  | 0xB =>
    if hdrF f.header then
      checkedFrame putsAtUse (hdrLen f.header).toNat f (.putsAt (hdrRow f.header) (hdrCol f.header) f.payload)
    else checkedFrame { len := true } (hdrLen f.header).toNat f (.puts f.payload)
  | 0xC => checkedFrame { low := true } 8 f (.glyph (hdrLow f.header) f.payload)
  | 0xD => .ok (.reservedD (hdrRest f.header))
  | 0xE => .ok (.reservedE (hdrRest f.header))
  | _ => .ok (.reservedF (hdrRest f.header))

/-- A command byte, by the patterns of spec/opcode_table.json (30_encoding.md R65 to R71, R78). -/
def decodeCommand (b : Byte) : Except DecodeError Instr :=
  if b = Machine.CLR then .ok .cmdClr
  else if b = Machine.HOME then .ok .cmdHome
  else if b = Machine.encEntryMode then .ok .cmdEntryModeInc
  else if b &&& 0xF8 = Machine.ON_CTRL then .ok (.cmdDisplayControl (b.getLsbD 2) (b.getLsbD 1) (b.getLsbD 0))
  else if b &&& 0xF7 = Machine.FUNCTION then .ok (.cmdFunctionSet (b.getLsbD 3))
  else if b &&& 0xC7 = Machine.CGRAM then .ok (.cmdCgramAddr (b.extractLsb' 3 3))
  else if b &&& 0x80 = Machine.DDRAM then .ok (.cmdDdramAddr (b.extractLsb' 0 7))
  else .error .notACommand

/-- A word of Parts B and C in its format. -/
def decodeWord : BusWord → Except DecodeError Instr
  | .command b => decodeCommand b
  | .data b => .ok (.dataByte b)
  | .initNibble n =>
    if n = Machine.encInitNibble .reset then .ok .initNibbleReset
    else if n = Machine.encInitNibble .fourBit then .ok .initNibbleFunction
    else .error .notAnInitNibble
  | .nibbleByte b =>
    if b.getLsbD 1 then .error .rwSet
    else .ok (.expanderNibbleByte (Machine.highNibble b) (b.getLsbD 3) (b.getLsbD 2) (b.getLsbD 0))
  | .idleByte b => if b = Machine.IDLE then .ok .expanderIdle else .error .notIdle
  | .backlightByte b => if b &&& 0xF7 = 0 then .ok (.expanderBacklight (b.getLsbD 3)) else .error .notBacklight

/-- Decoding of any encoded form. -/
def decode : Code → Except DecodeError Instr
  | .frame f => decodeFrame f
  | .word w => decodeWord w

/-! The encoder. -/

/-- A header with RSV1 = RSV2 = 0 (30_encoding.md R56). -/
def header (opc : BitVec 4) (f : Bool) (row : BitVec 2) (col : BitVec 6) (len low : Byte) : BitVec 32 :=
  opc ++ BitVec.ofBool f ++ 0#1 ++ row ++ 0#2 ++ col ++ len ++ low

/-- A frame without operands or payload. -/
def bareFrame (opc : BitVec 4) : Code := .frame ⟨header opc false 0 0 0 0, []⟩

/-- The encoded form of an instruction (30_encoding.md R57, R58, R59 for frames; R64 to R75 for the others). -/
def encode : Instr → Code
  | .clear => bareFrame 0x0
  | .cursorOn => bareFrame 0x1
  | .cursorOff => bareFrame 0x2
  | .blinkOn => bareFrame 0x3
  | .blinkOff => bareFrame 0x4
  | .displayOn => bareFrame 0x5
  | .displayOff => bareFrame 0x6
  | .backlightOn => bareFrame 0x7
  | .backlightOff => bareFrame 0x8
  | .move save row col => .frame ⟨header 0x9 save row col 0 0, []⟩
  | .putc ch => .frame ⟨header 0xA false 0 0 0 ch, []⟩
  | .puts text => .frame ⟨header 0xB false 0 0 (BitVec.ofNat 8 text.length) 0, text⟩
  | .putsAt row col text => .frame ⟨header 0xB true row col (BitVec.ofNat 8 text.length) 0, text⟩
  | .glyph slot8 bitmap => .frame ⟨header 0xC false 0 0 0 slot8, bitmap⟩
  | .reservedD rest => .frame ⟨0xD#4 ++ rest, []⟩
  | .reservedE rest => .frame ⟨0xE#4 ++ rest, []⟩
  | .reservedF rest => .frame ⟨0xF#4 ++ rest, []⟩
  | .cmdClr => .word (.command Machine.CLR)
  | .cmdHome => .word (.command Machine.HOME)
  | .cmdEntryModeInc => .word (.command Machine.encEntryMode)
  | .cmdDisplayControl d c b => .word (.command (Machine.encDisplayControl d c b))
  | .cmdFunctionSet n => .word (.command (Machine.functionSetByte n))
  | .cmdCgramAddr slot => .word (.command (Machine.encCgram slot.toNat))
  | .cmdDdramAddr addr => .word (.command (Machine.encDdram addr))
  | .dataByte d => .word (.data d)
  | .initNibbleReset => .word (.initNibble (Machine.encInitNibble .reset))
  | .initNibbleFunction => .word (.initNibble (Machine.encInitNibble .fourBit))
  | .expanderNibbleByte nibble bl e rs => .word (.nibbleByte (Machine.expanderBits nibble bl e rs))
  | .expanderIdle => .word (.idleByte Machine.IDLE)
  | .expanderBacklight bl => .word (.backlightByte (Machine.backlightBits bl))

/-! Words numbered as spec/opcode_table.json numbers them. -/

/-- The `n` payload bytes of a number, first byte lowest. -/
def payloadOf : Nat → Nat → List Byte
  | 0, _ => []
  | n + 1, w => BitVec.ofNat 8 w :: payloadOf n (w / 256)

/-- How many payload bytes the header fixes (30_encoding.md R60). -/
def payloadBytes (h : BitVec 32) : Nat :=
  match (hdrOpc h).toNat with
  | 0xB => (hdrLen h).toNat
  | 0xC => 8
  | _ => 0

/-- The frame whose header is the low 32 bits of `w` and whose payload is what stands above them, first byte lowest. The spec numbers
the header's bits only (30_encoding.md R55, R56). DESIGN CHOICE, safe: this numbering of a frame as one number, in which missing
payload bytes are 0 (log entry 30). -/
def frameOfNat (w : Nat) : Frame :=
  let h : BitVec 32 := BitVec.ofNat 32 w
  ⟨h, payloadOf (payloadBytes h) (w / 2 ^ 32)⟩

/-- The format in which a bare byte of the table is read. The table's formats of 8 bits overlap, and only the bits are given
here. DESIGN CHOICE, safe: a command byte first, then the idle byte, then the reset nibble, then a nibble byte, then a data byte
(log entry 15). -/
def wordOfByte (b : Byte) : BusWord :=
  if (decodeCommand b).isOk then .command b
  else if b = Machine.IDLE then .idleByte b
  else if b = 0x03 then .initNibble (Machine.lowNibble b)
  else if b.getLsbD 1 then .data b
  else .nibbleByte b

/-- The encoded form of a word of `nbits` bits. -/
def codeOfTableWord (nbits w : Nat) : Code :=
  if nbits ≤ 4 then .word (.initNibble (BitVec.ofNat 4 w))
  else if nbits ≤ 8 then .word (wordOfByte (BitVec.ofNat 8 w))
  else .frame (frameOfNat w)

/-- The instruction the decoder reads from a word of spec/opcode_table.json. -/
def decodeTableWord (nbits w : Nat) : Option Instr :=
  (decode (codeOfTableWord nbits w)).toOption

end Sys2Proof
end

