-- ==== Sys2Proof/Machine/Init.lean ====
section
/-! DEFINITION. The initialization sequence (70_reset_and_hazards.md R151 to R156): the statements of each phase, in order. -/

namespace Sys2Proof.Machine

/-- One FUNCTION_RESET nibble and its wait, then the next phase (70_reset_and_hazards.md R152). -/
def modeReset (ms : Nat) (next : Phase) : List Stmt :=
  [.send (.initNibble (encInitNibble .reset)), .wait ms, .enter next]

/-- All statements of a phase (70_reset_and_hazards.md R151 to R155). The function set depends on the geometry alone. -/
def program (numLines : BitVec 3) : Phase → List Stmt
  | .powerUp => [.send (.idleByte IDLE), .wait 20, .enter .modeReset1]
  | .modeReset1 => modeReset 5 .modeReset2
  | .modeReset2 => modeReset 1 .modeReset3
  | .modeReset3 => modeReset 1 .fourBit
  | .fourBit => [.send (.initNibble (encInitNibble .fourBit)), .wait 1, .enter .configured]
  | .configured =>
    [.body .displayOff, .body .backlightOn, .body .clear, .send (.command encEntryMode), .body .cursorOff, .body .displayOn,
     .send (.command (encFunctionSet numLines.toNat)), .enter .ready]
  | .uninit => []
  | .ready => []
  | .initFailed => []

/-- The statements the engine has still to run in its phase (log entry 13). -/
def State.statements (s : State) : List Stmt :=
  if s.seq.isEmpty then program s.numLines s.phase else s.seq

/-- The steps of the base initializer (70_reset_and_hazards.md R154). -/
def initBody : InitBody → State → Run
  | .displayOff => bodyDisplay false
  | .backlightOn => bodyBacklight true
  | .clear => bodyClear
  | .cursorOff => bodyCursor false
  | .displayOn => bodyDisplay true

end Sys2Proof.Machine
end

