-- ==== Sys2Proof/Machine/Fetch.lean ====
section
/-! DEFINITION. What the engine does next (10_state.md R31, R37): a reset, its own initialization, or the frame on the operation
port, read whole and checked in the order phase, encoding (43_driver_ops.md R110, 60_exceptions.md R136). -/

namespace Sys2Proof.Machine

/-- What the next step is: an instruction to run in a state, or something settled without one. -/
inductive Fetched where
  | run (i : Instr) (s : State)
  | settled (o : Host.Outcome State Fault Refusal)

/-- One statement of the initialization sequence, the rest of them already in `s`. -/
def fetchStmt (st : Stmt) (s : State) : Fetched :=
  match st with
  | .send w =>
    match decodeWord w with
    | .ok i => .run i s
    | .error _ => .settled (.refused .notABusWord)
  | .wait ms => .settled (finish (delay ms s))
  | .body b => .settled (finish (initBody b s))
  | .enter p => .settled (.next (s.setPhase p))

/-- The frame taken from the operation port, the rest of the port already in `s` (43_driver_ops.md R110). -/
def fetchFrame (f : Frame) (s : State) : Fetched :=
  match s.phase.gate with
  | .closed => .settled (.next (s.refuse .notReady))
  | _ =>
    match decodeFrame f with
    | .ok i => .run i s
    | .error .payloadLength => .settled (.refused .payloadLength)
    | .error _ => .settled (executeIllegal s)

/-- Reset first, then the engine's own sequence, then the operation port. With nothing to do the engine waits for the next frame
(60_exceptions.md R137). -/
def fetch (s : State) : Fetched :=
  match s.resetReq with
  | some p => .settled (assertReset p s)
  | none =>
    if s.phase = .uninit then .settled (.next (release s))
    else
      match s.statements with
      | st :: rest => fetchStmt st (s.setSeq rest)
      | [] =>
        match s.frames with
        | f :: rest => fetchFrame f (s.setFrames rest)
        | [] => .settled (.next s)

/-- Put an encoded instruction where the next step takes its instruction from (log entry 5): a frame on the operation port of an
engine in READY, a word of Parts B and C at the head of the engine's own sequence. -/
def State.place (s : State) : Code → State
  | .frame f => { s with frames := f :: s.frames, phase := .ready, seq := [], resetReq := none }
  | .word w =>
    { s with seq := .send w :: s.seq, phase := if s.phase = .uninit then .powerUp else s.phase, resetReq := none }

end Sys2Proof.Machine
end

