-- ==== Sys2Proof/Machine/Step.lean ====
section
/-! DEFINITION. One step of the engine: what the fetch gives, run by exec. -/

namespace Sys2Proof.Machine

/-- One step: a whole operation, one statement of initialization, or one reset edge. -/
def step (s : State) : Host.Outcome State Fault Refusal :=
  match fetch s with
  | .run i t => exec i t
  | .settled o => o

/-- `s` with the instruction of a table word placed where the next step takes it (log entries 5 and 15). -/
def State.withFetchWord (s : State) (nbits w : Nat) : State := s.place (codeOfTableWord nbits w)

end Sys2Proof.Machine
end

