-- ==== Sys2Proof/Machine/Assembler.lean ====
section
/-! DEFINITION. The assembler of 30_encoding.md R63 and R79, on lines already read into their mnemonic and operands
(log entry 24). -/

namespace Sys2Proof.Machine

/-- A line: mnemonic and operands, numbers as written (30_encoding.md R63), and the pseudo-operations (30_encoding.md R79). -/
inductive AsmLine where
  | clear
  | cursorOn
  | cursorOff
  | blinkOn
  | blinkOff
  | displayOn
  | displayOff
  | backlightOn
  | backlightOff
  | move (row col : Nat)
  /-- `MOVE.S` -/
  | moveS (row col : Nat)
  | putc (ch : Nat)
  | puts (text : List Nat)
  | putsAt (row col : Nat) (text : List Nat)
  | glyph (slot : Nat) (bitmap : List Nat)
  | newline
  | printAt (row col : Nat) (text : List Nat)
  | homeCursor
  deriving DecidableEq, Repr

/-- Why a line is refused. -/
inductive AsmError where
  /-- longer than 255 codes (30_encoding.md R63) -/
  | stringTooLong
  /-- a code above 255 (30_encoding.md R63), or a bitmap number above 255 (log entry 24) -/
  | codeTooLarge
  /-- a slot above 255 (30_encoding.md R63) -/
  | slotTooLarge
  /-- not 8 bytes (30_encoding.md R59) -/
  | bitmapLength
  /-- a row above 3, which no header holds (30_encoding.md R61) -/
  | rowTooLarge
  /-- a column above 63, which no header holds (30_encoding.md R61) -/
  | columnTooLarge
  deriving DecidableEq, Repr

/-- The codes of a quoted string: `\n` stands for 0x0A (30_encoding.md R63). DESIGN CHOICE, safe: any other character, in a string
or quoted alone, stands for its Unicode code point (log entry 24), since the mapping of text is out of scope (00_scope.md R5). -/
def codesOfText : List Char → List Nat
  | [] => []
  | '\\' :: 'n' :: rest => 0x0A :: codesOfText rest
  | c :: rest => c.toNat :: codesOfText rest

/-- A number of 8 bits. -/
def asmByte (error : AsmError) (n : Nat) : Except AsmError Byte :=
  if n ≤ 255 then .ok (BitVec.ofNat 8 n) else .error error

/-- Codes of 8 bits each: of a text (30_encoding.md R63), and of a bitmap, where refusing a number above 255 is the model's DESIGN
CHOICE, safe (log entry 24). -/
def asmCodes : List Nat → Except AsmError (List Byte)
  | [] => .ok []
  | n :: rest => (asmByte .codeTooLarge n).bind fun b => (asmCodes rest).map (b :: ·)

/-- A string operand. -/
def asmText (text : List Nat) : Except AsmError (List Byte) :=
  if text.length ≤ 255 then asmCodes text else .error .stringTooLong

/-- A row and a column that the header can hold. -/
def asmPos (row col : Nat) : Except AsmError Pos :=
  if 3 < row then .error .rowTooLarge
  else if 63 < col then .error .columnTooLarge
  else .ok ⟨BitVec.ofNat 2 row, BitVec.ofNat 6 col⟩

/-- `PUTS row, col, "text"`. -/
def asmPutsAt (row col : Nat) (text : List Nat) : Except AsmError Instr :=
  (asmPos row col).bind fun p => (asmText text).map fun t => .putsAt p.row p.col t

/-- One line to one operation. -/
def assemble : AsmLine → Except AsmError Instr
  | .clear => .ok .clear
  | .cursorOn => .ok .cursorOn
  | .cursorOff => .ok .cursorOff
  | .blinkOn => .ok .blinkOn
  | .blinkOff => .ok .blinkOff
  | .displayOn => .ok .displayOn
  | .displayOff => .ok .displayOff
  | .backlightOn => .ok .backlightOn
  | .backlightOff => .ok .backlightOff
  | .move row col => (asmPos row col).map fun p => .move false p.row p.col
  | .moveS row col => (asmPos row col).map fun p => .move true p.row p.col
  | .putc ch => (asmByte .codeTooLarge ch).map .putc
  | .puts text => (asmText text).map .puts
  | .putsAt row col text => asmPutsAt row col text
  | .glyph slot bitmap =>
    (asmByte .slotTooLarge slot).bind fun b =>
      if bitmap.length = 8 then (asmCodes bitmap).map (.glyph b ·) else .error .bitmapLength
  | .newline => .ok (.putc NEWLINE)
  | .printAt row col text => asmPutsAt row col text
  | .homeCursor => .ok (.move false 0 0)

end Sys2Proof.Machine
end

