-- ==== Sys2Proof/Machine/Controller.lean ====
section
/-! DEFINITION. The controller and the expander as READERS of the trace. They are no part of the engine and no state of the machine
(00_scope.md R5, R6; 92_eei_decisions.md D1). The spec states what the engine assumes of them (10_state.md R32, R35; 20_memory.md
R41 to R44; 30_encoding.md R78), and this file is that assumption, so that a statement about a trace can say what it tells them.
PRESUMED wherever the spec marks general knowledge (93_implementation_defined.md G2 to G6), and where this file says so (log
entries 18 to 20). -/

namespace Sys2Proof.Machine

/-! Known memory cells. -/

/-- What is known of DDRAM or CGRAM: cells in rising order of address. An unlisted address holds an unknown byte, so it reads as
`none`. -/
abbrev Memory := List Host.Cell

/-- The byte known to stand at an address. -/
def Memory.read : Memory → Nat → Option Byte
  | [], _ => none
  | (b, v) :: rest, a => if a = b then some v else Memory.read rest a

/-- A byte stored at an address. -/
def Memory.write : Memory → Nat → Byte → Memory
  | [], a, v => [(a, v)]
  | (b, w) :: rest, a, v =>
    if a < b then (a, v) :: (b, w) :: rest
    else if a = b then (a, v) :: rest
    else (b, w) :: Memory.write rest a v

/-- Every address of the list is above `n`. -/
def Memory.above (n : Nat) (m : Memory) : Bool := m.all fun c => decide (n < c.1)

/-- The canonical form: addresses strictly rising. -/
def Memory.wf : Memory → Bool
  | [] => true
  | (b, _) :: rest => Memory.above b rest && Memory.wf rest

/-! Commands. -/

/-- The classes of command byte (30_encoding.md R78), with the shift class, which the engine never sends. -/
inductive CommandClass where
  | ddramAddress
  | cgramAddress
  | functionSet
  | shift
  | displayControl
  | entryMode
  | home
  | clear
  deriving DecidableEq, Repr

/-- The class of a command byte: its highest set bit (30_encoding.md R78). PRESUMED: 0x00, which has none, is of no class (log
entry 19). -/
def classify (v : Byte) : Option CommandClass :=
  if v.getLsbD 7 then some .ddramAddress
  else if v.getLsbD 6 then some .cgramAddress
  else if v.getLsbD 5 then some .functionSet
  else if v.getLsbD 4 then some .shift
  else if v.getLsbD 3 then some .displayControl
  else if v.getLsbD 2 then some .entryMode
  else if v.getLsbD 1 then some .home
  else if v.getLsbD 0 then some .clear
  else none

/-- How the controller takes nibbles: each as a whole transfer (8-bit interface, the low lines not connected), or in pairs, with
the high nibble that waits for its partner (10_state.md R32: interface mode and nibble phase). -/
inductive Link where
  | eightBit
  | fourBit (high : Option Nibble)
  deriving DecidableEq, Repr

/-- The address counter, in the space of the last address command (10_state.md R32). -/
inductive Pointer where
  | ddram (a : BitVec 7)
  | cgram (a : BitVec 6)
  deriving DecidableEq, Repr

/-- The hidden state of 10_state.md R32, and the expander's latch (20_memory.md R41, 60_exceptions.md R144). -/
structure Controller where
  latch      : Byte
  link       : Link
  pointer    : Pointer
  increments : Bool
  twoLine    : Bool
  display    : Bool
  cursor     : Bool
  blink      : Bool
  ddram      : Memory
  cgram      : Memory
  deriving DecidableEq, Repr

/-- The address after `a` (93_implementation_defined.md G4). PRESUMED: without the increment bit it counts down. -/
def Controller.nextAddress {n : Nat} (c : Controller) (a : BitVec n) : BitVec n := if c.increments then a + 1 else a - 1

/-- A data byte goes to the cell of the address counter, which then moves (20_memory.md R42, R43; 93 G4). -/
def Controller.data (c : Controller) (v : Byte) : Controller :=
  match c.pointer with
  | .ddram a => { c with ddram := c.ddram.write a.toNat v, pointer := .ddram (c.nextAddress a) }
  | .cgram a => { c with cgram := c.cgram.write a.toNat v, pointer := .cgram (c.nextAddress a) }

/-- A command byte, by its class. PRESUMED (log entry 19): CLR and HOME set the DDRAM address to 0, and CLR leaves DDRAM unknown; a
shift is not followed and 0x00 does nothing, and no byte of the engine is either. -/
def Controller.command (c : Controller) (v : Byte) : Controller :=
  match classify v with
  | some .ddramAddress => { c with pointer := .ddram (v.extractLsb' 0 7) }
  | some .cgramAddress => { c with pointer := .cgram (v.extractLsb' 0 6) }
  | some .functionSet => { c with link := if v.getLsbD 4 then .eightBit else .fourBit none, twoLine := v.getLsbD 3 }
  | some .shift => c
  | some .displayControl => { c with display := v.getLsbD 2, cursor := v.getLsbD 1, blink := v.getLsbD 0 }
  | some .entryMode => { c with increments := v.getLsbD 1 }
  | some .home => { c with pointer := .ddram 0 }
  | some .clear => { c with pointer := .ddram 0, ddram := [] }
  | none => c

/-- A whole byte, by RS (30_encoding.md R74). -/
def Controller.byte (c : Controller) (rs : Bool) (v : Byte) : Controller := if rs then c.data v else c.command v

/-- A sampled nibble (20_memory.md R44). PRESUMED (log entry 20): on the 8-bit interface the unconnected low lines read 0. -/
def Controller.nibble (c : Controller) (rs : Bool) (n : Nibble) : Controller :=
  match c.link with
  | .eightBit => c.byte rs (n ++ 0#4)
  | .fourBit none => { c with link := .fourBit (some n) }
  | .fourBit (some h) => ({ c with link := .fourBit none } : Controller).byte rs (h ++ n)

/-- A bus write replaces the latch (20_memory.md R41); a falling edge of E with RW = 0 samples RS and the nibble (20_memory.md R48).
DESIGN CHOICE, unsafe: a write that failed or that a reset overtook is taken like any other, where the spec leaves open whether it
was latched (60_exceptions.md R138, 42_nibble_transport.md R102; log entry 29). DESIGN CHOICE, unsafe: on a falling edge RS, RW and
the nibble are those of the E = 0 byte, where the byte before it differs from it in them (log entry 31). -/
def Controller.take (c : Controller) (b : Byte) : Controller :=
  let c' : Controller := { c with latch := b }
  if c.latch.getLsbD 2 && !b.getLsbD 2 && !b.getLsbD 1 then c'.nibble (b.getLsbD 0) (b.extractLsb' 4 4) else c'

/-- One event of the trace. An event does not say how its write was answered: DESIGN CHOICE, unsafe, every write is taken (log
entry 29). -/
def Controller.observe (c : Controller) : Event → Controller
  | .write _ b => c.take b
  | .delay _ => c

/-- The controller after a trace, from any start (93_implementation_defined.md U2). -/
def Controller.run (c : Controller) (trace : List Event) : Controller := trace.foldl Controller.observe c

end Sys2Proof.Machine
end

