-- ==== Sys2Proof/Machine/Snapshot.lean ====
section
/-! DEFINITION. The snapshot port (10_state.md R33) and the numbers of the phases (10_state.md R27). -/

namespace Sys2Proof.Machine

/-- The 4-bit value of S.phase (10_state.md R27). -/
def Phase.code : Phase → BitVec 4
  | .uninit => 0
  | .powerUp => 1
  | .modeReset1 => 2
  | .modeReset2 => 3
  | .modeReset3 => 4
  | .fourBit => 5
  | .configured => 6
  | .ready => 7
  | .initFailed => 8

/-- What the snapshot port shows (10_state.md R33). -/
structure Snapshot where
  cur        : Pos
  saved      : Pos
  flags      : BitVec 4
  phase      : BitVec 4
  status     : Status
  numLines   : BitVec 3
  numColumns : BitVec 6
  deriving DecidableEq, Repr

/-- The snapshot, between operations (10_state.md R33). DESIGN CHOICE, safe: none while any reset is pending, one that cuts an
operation off and one that the host asks for between operations alike (log entry 23). -/
def State.snapshot (s : State) : Option Snapshot :=
  if s.resetReq.isSome then none
  else some ⟨s.cur, s.saved, s.flags, s.phase.code, s.status, s.numLines, s.numColumns⟩

end Sys2Proof.Machine
end

