-- ==== Sys2Proof/Safety.lean ====
section
/-! DEFINITION. The terms claims are made in: what goes out on the ports, what the environment does, the invariants, and a
controller in step with the engine. -/

namespace Sys2Proof.Machine

/-! What goes out. -/

/-- One output, before the bus address is added to it: a byte on the bus port or a request on the delay port. -/
inductive Out where
  | w (b : Byte)
  | d (ms : Nat)
  deriving DecidableEq, Repr

/-- The trace event of an output. -/
def Out.event (addr : BitVec 7) : Out → Event
  | .w b => .write addr b
  | .d ms => .delay ms

/-- How many bus writes a list of outputs has. -/
def writesIn : List Out → Nat
  | [] => 0
  | .w _ :: rest => writesIn rest + 1
  | .d _ :: rest => writesIn rest

/-- How many delays a list of outputs has. -/
def delaysIn : List Out → Nat
  | [] => 0
  | .w _ :: rest => delaysIn rest
  | .d _ :: rest => delaysIn rest + 1

/-- The outputs up to and including the write numbered `k` from 0 (60_exceptions.md R137, R138). -/
def upToWrite : Nat → List Out → List Out
  | _, [] => []
  | 0, .w b :: _ => [.w b]
  | k + 1, .w b :: rest => .w b :: upToWrite k rest
  | k, .d ms :: rest => .d ms :: upToWrite k rest

/-- `s` after these outputs, with nothing else changed: the trace longer, the ports moved on. -/
def State.emitted (s : State) (outs : List Out) : State :=
  { s with
    trace := s.trace ++ outs.map (Out.event s.i2cAddr)
    bus := s.bus.advance (writesIn outs)
    timer := s.timer.advance (delaysIn outs) }

/-- A nibble, E = 1 then E = 0 (30_encoding.md R77). -/
def outNibble (bl rs : Bool) (n : Nibble) : List Out := [.w (expanderBits n bl true rs), .w (expanderBits n bl false rs)]

/-- A byte, high nibble first (20_memory.md R44). -/
def outByte (bl rs : Bool) (v : Byte) : List Out := outNibble bl rs (highNibble v) ++ outNibble bl rs (lowNibble v)

/-- A command byte with its settle delay (42_nibble_transport.md R104, R108). -/
def outCommand (bl : Bool) (cmd : Byte) : List Out := outByte bl false cmd ++ if cmd.toNat ≤ 3 then [.d 5] else []

/-- A data byte (42_nibble_transport.md R105). -/
def outData (bl : Bool) (v : Byte) : List Out := outByte bl true v

/-- The re-address command of a position (43_driver_ops.md R112). -/
def outAddress (bl : Bool) (p : Pos) : List Out := outCommand bl (encDdram p.address)

/-- The display-control command of the flags as `s` holds them (43_driver_ops.md R111). -/
def outFlags (s : State) : List Out := outCommand s.backlight (encDisplayControl s.display s.cursor s.blink)

/-! What a character does (43_driver_ops.md R123). -/

/-- The position after a character. -/
def State.posAfter (s : State) (ch : Byte) : Pos :=
  if ch = NEWLINE ∨ atLastColumn s then ⟨nextRow s.numLines s.cur.row, 0⟩
  else ⟨s.cur.row, BitVec.ofNat 6 (s.cur.col.toNat + 1)⟩

/-- The data byte of a character; a newline has none. -/
def charData (bl : Bool) (ch : Byte) : List Out := if ch = NEWLINE then [] else outData bl ch

/-- The re-address of a character, where it wraps. -/
def State.charAddress (s : State) (ch : Byte) : List Out :=
  if ch = NEWLINE ∨ atLastColumn s then outAddress s.backlight (s.posAfter ch) else []

/-- `s` after a character was printed without a fault. -/
def State.typed (s : State) (ch : Byte) : State :=
  (s.emitted (charData s.backlight ch ++ s.charAddress ch)).setCur (s.posAfter ch)

/-- `s` after a string was printed without a fault. -/
def State.typedAll (s : State) : List Byte → State
  | [] => s
  | ch :: rest => (s.typed ch).typedAll rest

/-- What goes out for a string. -/
def State.outsAll (s : State) : List Byte → List Out
  | [] => []
  | ch :: rest => charData s.backlight ch ++ s.charAddress ch ++ (s.typed ch).outsAll rest

/-- What goes out for GLYPH (43_driver_ops.md R126). -/
def State.outGlyph (s : State) (slot8 : Byte) (bitmap : List Byte) : List Out :=
  outCommand s.backlight (encCgram slot8.toNat) ++ bitmap.flatMap (outData s.backlight) ++ outAddress s.backlight s.cur

/-- `s` after an operation completed without a fault: status written and returned (43_driver_ops.md R110). -/
def State.succeeded (s : State) : State := (s.setStatus .ok).reply (.completed .ok)

/-- `s` after an operation was ended by a TransportFault (43_driver_ops.md R110, 60_exceptions.md R137). -/
def State.failed (s : State) (e : BusFault) : State := (takeFault e s).reply (.completed (.fault e))

/-! What a statement of initialization does (70_reset_and_hazards.md R151 to R155). -/

/-- What goes out for a word, with the backlight flag `bl`. -/
def outWord (bl : Bool) : BusWord → List Out
  | .command b => outCommand bl b
  | .data b => outData bl b
  | .initNibble n => outNibble false false n
  | .nibbleByte b => [.w b]
  | .idleByte b => [.w b]
  | .backlightByte b => [.w b]

/-- `s` with the registers written that a step of the base initializer writes before it sends (70_reset_and_hazards.md R154). -/
def State.bodyWrites (s : State) : InitBody → State
  | .displayOff => s.setDisplay false
  | .backlightOn => s.setBacklight true
  | .clear => s
  | .cursorOff => s.setCursor false
  | .displayOn => s.setDisplay true

/-- What goes out for a step of the base initializer, its registers already written in `s`. -/
def State.outBody (s : State) : InitBody → List Out
  | .displayOff => outFlags s
  | .backlightOn => [.w (backlightBits s.backlight)]
  | .clear => outCommand s.backlight CLR ++ outCommand s.backlight HOME
  | .cursorOff => outFlags s
  | .displayOn => outFlags s

/-- `s` with the registers written that a statement writes before it sends. -/
def State.stmtWrites (s : State) : Stmt → State
  | .send _ => s
  | .wait _ => s
  | .body b => s.bodyWrites b
  | .enter _ => s

/-- What goes out for a statement, its registers already written in `s`. -/
def State.outStmt (s : State) : Stmt → List Out
  | .send w => outWord s.backlight w
  | .wait ms => [.d ms]
  | .body b => s.outBody b
  | .enter _ => []

/-- `s` after a TransportFault of initialization: FAULT(e), the mark, INIT_FAILED, and nothing left of the sequence (60_exceptions.md
R148). -/
def State.initFault (s : State) (e : BusFault) : State :=
  { s with status := .fault e, faultSeen := true, phase := .initFailed, seq := [] }

/-! What the environment does. -/

/-- The next `w` bus writes are answered OK and the next `d` delays end. -/
def State.calm (s : State) (w d : Nat) : Prop :=
  (∀ i, i < w → s.bus.peek i = .ok) ∧ (∀ i, i < d → s.timer.peek i = .elapsed)

/-- The bus write numbered `k` from 0 is the first that fails, with `e`, and the next `d` delays end. -/
def State.failsAt (s : State) (k : Nat) (e : BusFault) (d : Nat) : Prop :=
  s.calm k d ∧ s.bus.peek k = .fault e

/-! Headers. -/

/-- The conditions of 30_encoding.md R62, field by field. -/
def illegalHeader (h : BitVec 32) : Prop :=
  let opc := (hdrOpc h).toNat
  let positioned := opc = 0x9 ∨ (opc = 0xB ∧ hdrF h = true)
  0xD ≤ opc ∨ hdrRsv1 h = true ∨ hdrRsv2 h ≠ 0 ∨
  (hdrF h = true ∧ opc ≠ 0x9 ∧ opc ≠ 0xB) ∨
  (hdrRow h ≠ 0 ∧ ¬ positioned) ∨ (hdrCol h ≠ 0 ∧ ¬ positioned) ∨
  (hdrLen h ≠ 0 ∧ opc ≠ 0xB) ∨ (hdrLow h ≠ 0 ∧ opc ≠ 0xA ∧ opc ≠ 0xC)

/-- The instruction is an operation frame, a reserved opcode among them. -/
def isFrame (i : Instr) : Prop := ∃ f, encode i = .frame f

/-! Frames: what a step leaves alone. -/

/-- Geometry, bus address and the operation port are as before, and the records only grow: the trace by the outputs that the ports
have moved on by. The sequence is lost only to a fault, the refused bit changes only in a refusal, which sends nothing and leaves the
status, and a reset request comes only where the status is left. -/
def State.keepsConfig (s t : State) : Prop :=
  t.numLines = s.numLines ∧ t.numColumns = s.numColumns ∧ t.i2cAddr = s.i2cAddr ∧ t.frames = s.frames ∧ s.replies <+: t.replies ∧
  (∃ outs : List Out, t.trace = s.trace ++ outs.map (Out.event s.i2cAddr) ∧ t.bus = s.bus.advance (writesIn outs) ∧
    t.timer = s.timer.advance (delaysIn outs)) ∧
  (t.seq = s.seq ∨ (t.seq = [] ∧ t.faultSeen = true)) ∧
  (t.refused = s.refused ∨ (t.status = s.status ∧ t.faultSeen = s.faultSeen ∧ t.trace = s.trace)) ∧
  (t.resetReq = s.resetReq ∨ t.status = s.status)

/-- Both cursor positions are as before. -/
def State.keepsPositions (s t : State) : Prop := t.cur = s.cur ∧ t.saved = s.saved

/-- All four flags are as before. -/
def State.keepsFlags (s t : State) : Prop :=
  t.backlight = s.backlight ∧ t.display = s.display ∧ t.cursor = s.cursor ∧ t.blink = s.blink

/-! Invariants. -/

/-- A position lies within the geometry. -/
def State.within (s : State) (p : Pos) : Prop := p.row.toNat < s.numLines.toNat ∧ p.col.toNat < s.numColumns.toNat

/-- The bounds invariant (10_state.md R23) with the geometry it speaks of (00_scope.md R9). -/
def State.inBounds (s : State) : Prop :=
  s.numLines.toNat ≤ MAX_LINES ∧ s.numColumns.toNat ≤ MAX_COLS ∧ s.within s.cur ∧ s.within s.saved

/-- The engine's own sequence is a rest of the program of its phase, possibly empty (70_reset_and_hazards.md R156). -/
def State.onProgram (s : State) : Prop := s.seq <:+ program s.numLines s.phase

/-- A fault status leaves its mark, and a failed initialization has one (10_state.md R28, 60_exceptions.md R148). -/
def State.marked (s : State) : Prop :=
  (∀ e, s.status = .fault e → s.faultSeen = true) ∧ (s.phase = .initFailed → ∃ e, s.status = .fault e)

/-- What holds in every state the engine reaches. -/
def State.Inv (s : State) : Prop := s.inBounds ∧ s.onProgram ∧ s.marked

/-- Between operations in READY: no reset pending, nothing of its own to run. -/
def State.readyIdle (s : State) : Prop := s.phase = .ready ∧ s.seq = [] ∧ s.resetReq = none

/-! A controller in step with the engine. -/

/-- The controller's DDRAM address is that of the cursor and its display-control setting that of the flags (10_state.md R35); it
waits for a high nibble on the 4-bit interface, counts up, and the expander shows E = 0 and the backlight flag. -/
def Synced (c : Controller) (s : State) : Prop :=
  c.link = .fourBit none ∧ c.increments = true ∧ c.pointer = .ddram s.cur.address ∧
  c.display = s.display ∧ c.cursor = s.cursor ∧ c.blink = s.blink ∧
  c.latch.getLsbD 2 = false ∧ c.latch.getLsbD 3 = s.backlight

/-! Records that are no part of the hardware. -/

/-- `s` with the ghost bits, the status and the record of replies wiped (10_state.md R28). -/
def State.unmarked (s : State) : State := { s with status := .ok, faultSeen := false, refused := false, replies := [] }

/-- RW is 0 in a bus write, and the write goes to the device `addr` (30_encoding.md R73, 20_memory.md R40). -/
def Event.plainWrite (addr : BitVec 7) : Event → Prop
  | .write a b => a = addr ∧ b.getLsbD 1 = false
  | .delay _ => True

end Sys2Proof.Machine
end

