-- ==== Sys2Proof/Certificates/Slice0/Obligations.lean ====
section
/-! DEFINITION. What is claimed of the engine, from the numbered rules of spec/. Where a statement says that the environment is
calm, the answers of the next bus writes and the ends of the next delays are those of an undisturbed run. -/

open Sys2Proof Sys2Proof.Machine

/-! Encoding. -/

/-- 30_encoding.md R55 to R75: every instruction that has an encoding is read back from it, with every operand. -/
def Obligations.DecodeOfEncode : Prop :=
  ∀ i : Instr, i.wellFormed = true → decode (encode i) = .ok i

/-- 30_encoding.md R58, R67, R69, R70, with the words of 95_test_vectors.md 2.4 and 2.5: some words read as the operations they stand
for. That payload bytes stand above the header and are 0 where missing is log entry 30, and that the bytes 0x06 and 0x48 are read as
commands is log entry 15, both the model's choice. -/
def Obligations.SpecWordsDecode : Prop :=
  decodeTableWord 32 0x00000000 = some .clear ∧ decodeTableWord 32 0x40000000 = some .blinkOff ∧
  decodeTableWord 32 0x900E0000 = some (.move false 0 14) ∧ decodeTableWord 32 0x99050000 = some (.move true 1 5) ∧
  decodeTableWord 32 0xA0000041 = some (.putc 0x41) ∧ decodeTableWord 32 0xC0000009 = some (.glyph 9 [0, 0, 0, 0, 0, 0, 0, 0]) ∧
  decodeTableWord 48 0x6948B0000200 = some (.puts [0x48, 0x69]) ∧ decodeTableWord 40 0x58B9050100 = some (.putsAt 1 5 [0x58]) ∧
  decodeTableWord 8 0x06 = some .cmdEntryModeInc ∧ decodeTableWord 8 0x48 = some (.cmdCgramAddr 1) ∧
  decodeTableWord 4 0x3 = some .initNibbleReset ∧ decodeTableWord 32 0x94000000 = none

/-- 30_encoding.md R58, R61: the match and mask of each operation's row select exactly the headers the decoder reads as it, and the
operands are the header's fields, F in bit 27, ROW in bits 25..24, COL in bits 21..16, CH or SLOT8 in bits 7..0. -/
def Obligations.MatchAndMaskSelectTheRow : Prop :=
  ∀ h : BitVec 32,
    (∀ p ∈ [(0x0#32, Instr.clear), (0x1#32, .cursorOn), (0x2#32, .cursorOff), (0x3#32, .blinkOn), (0x4#32, .blinkOff),
        (0x5#32, .displayOn), (0x6#32, .displayOff), (0x7#32, .backlightOn), (0x8#32, .backlightOff)],
      (h &&& 0xFFFFFFFF = p.1 <<< 28 ↔ decodeFrame ⟨h, []⟩ = .ok p.2)) ∧
    (h &&& 0xF4C0FFFF = 0x90000000 ↔ decodeFrame ⟨h, []⟩ = .ok (.move (h.getLsbD 27) (h.extractLsb 25 24) (h.extractLsb 21 16))) ∧
    ((∃ save row col, decodeFrame ⟨h, []⟩ = .ok (.move save row col)) → h &&& 0xF4C0FFFF = 0x90000000) ∧
    (h &&& 0xFFFFFF00 = 0xA0000000 ↔ decodeFrame ⟨h, []⟩ = .ok (.putc (h.extractLsb 7 0))) ∧
    ((∃ ch, decodeFrame ⟨h, []⟩ = .ok (.putc ch)) → h &&& 0xFFFFFF00 = 0xA0000000) ∧
    (∀ text : List Byte, text.length = (hdrLen h).toNat →
      ((h &&& 0xFFFF00FF = 0xB0000000 ↔ decodeFrame ⟨h, text⟩ = .ok (.puts text)) ∧
       (h &&& 0xFCC000FF = 0xB8000000 ↔
        decodeFrame ⟨h, text⟩ = .ok (.putsAt (h.extractLsb 25 24) (h.extractLsb 21 16) text)) ∧
       ((∃ row col, decodeFrame ⟨h, text⟩ = .ok (.putsAt row col text)) → h &&& 0xFCC000FF = 0xB8000000))) ∧
    (∀ bitmap : List Byte, bitmap.length = 8 →
      ((h &&& 0xFFFFFF00 = 0xC0000000 ↔ decodeFrame ⟨h, bitmap⟩ = .ok (.glyph (h.extractLsb 7 0) bitmap)) ∧
       ((∃ slot8, decodeFrame ⟨h, bitmap⟩ = .ok (.glyph slot8 bitmap)) → h &&& 0xFFFFFF00 = 0xC0000000)))

/-- 30_encoding.md R62: a header is refused IllegalEncoding, with no bus write and nothing changed but the ghost bit and the
reply, exactly when one of the rule's conditions holds; a frame with any other header and its payload is an instruction. -/
def Obligations.IllegalHeadersAreRefused : Prop :=
  ∀ (s : State) (h : BitVec 32) (payload : List Byte) (rest : List Frame),
    s.readyIdle → s.frames = ⟨h, payload⟩ :: rest →
    (illegalHeader h → step s = .next ((s.setFrames rest).refuse .illegalEncoding)) ∧
    (¬ illegalHeader h → payload.length = payloadBytes h →
      ∃ i, decodeFrame ⟨h, payload⟩ = .ok i ∧ step s = exec i (s.setFrames rest))

/-- 30_encoding.md R60: an operation is read only from a frame whose payload has the length its header fixes. -/
def Obligations.FrameLengthIsFixed : Prop :=
  ∀ (f : Frame) (i : Instr), decodeFrame f = .ok i → i.wellFormed = true ∧
    ((∃ opc, hdrOpc f.header = opc ∧ 0xD ≤ opc.toNat) ∨
     (f.payload.length = payloadBytes f.header ∧
      payloadBytes f.header = if hdrOpc f.header = 0xB then (hdrLen f.header).toNat else if hdrOpc f.header = 0xC then 8 else 0))

/-- 42_nibble_transport.md R100 to R106: running the instruction a word of Parts B and C stands for sends that word: a command byte
by WriteCommand, a data byte by WriteData, an initialization nibble by WriteInitNibble, an expander byte by BusWrite. -/
def Obligations.DecodedWordSendsItself : Prop :=
  ∀ (w : BusWord) (i : Instr) (s : State), decodeWord w = .ok i →
    exec i s = finish (match w with
      | .command b => writeCommand b s
      | .data b => writeData b s
      | .initNibble n => writeInitNibble n s
      | .nibbleByte b => busWrite b s
      | .idleByte b => busWrite b s
      | .backlightByte b => busWrite b s)

/-- 40_command_encoder.md R80 to R86: the bytes of the CommandEncoder, bit by bit. -/
def Obligations.EncoderBytes : Prop :=
  encClear = [0x01, 0x02] ∧ encEntryMode = 0x06 ∧
  (∀ d c b, encDisplayControl d c b = 0b00001#5 ++ BitVec.ofBool d ++ BitVec.ofBool c ++ BitVec.ofBool b) ∧
  (∀ addr : BitVec 7, encDdram addr = 1#1 ++ addr) ∧
  (∀ slot : Nat, encCgram slot = 0b01#2 ++ BitVec.ofNat 3 (slot % 8) ++ 0#3) ∧
  (∀ n : Nat, encFunctionSet n = if n > 1 then 0x28 else 0x20) ∧
  encInitNibble .reset = 0x3 ∧ encInitNibble .fourBit = 0x2

/-- 42_nibble_transport.md R101 (30_encoding.md R72, R73, R75): the expander byte is (n << 4) | (BL << 3) | (E << 2) | RS with RW = 0,
and BL is the backlight flag as it stands when the byte is composed. -/
def Obligations.ExpanderByteLayout : Prop :=
  (∀ (s : State) (n : Nibble) (rs e : Bool),
    (s.expanderByte n rs e).toNat = n.toNat * 16 + s.backlight.toNat * 8 + e.toNat * 4 + rs.toNat ∧
    (s.expanderByte n rs e).getLsbD 1 = false) ∧
  (∀ (n : Nibble) (bl e rs : Bool),
    (expanderBits n bl e rs).toNat = n.toNat * 16 + bl.toNat * 8 + e.toNat * 4 + rs.toNat ∧
    (expanderBits n bl e rs).getLsbD 1 = false) ∧
  (∀ bl : Bool, (backlightBits bl).toNat = bl.toNat * 8) ∧ IDLE = 0

/-! The cursor. -/

/-- 41_cursor_state.md R90: the DDRAM address of every position within the largest geometry, as the formula gives it. -/
def Obligations.DisplayAddressFormula : Prop :=
  ∀ (row : BitVec 2) (col : BitVec 6), col.toNat < 40 →
    (displayAddress row col).toNat = col.toNat + (if row.toNat % 2 = 1 then 0x40 else 0) + (if row.toNat / 2 = 1 then 0x14 else 0) ∧
    (displayAddress row col).toNat ≤ 0x7B

/-- 41_cursor_state.md R92: advance counts the column up, and at the last column wraps to column 0 of the next line, from the last
line to line 0; it says whether it wrapped and changes nothing else. -/
def Obligations.AdvanceCountsAndWraps : Prop :=
  ∀ s : State, s.inBounds →
    ∃ wrapped p, advance s = (wrapped, s.setCur p) ∧
      (s.cur.col.toNat + 1 = s.numColumns.toNat → wrapped = true ∧ p.col = 0 ∧
        p.row.toNat = if s.cur.row.toNat + 1 = s.numLines.toNat then 0 else s.cur.row.toNat + 1) ∧
      (s.cur.col.toNat + 1 ≠ s.numColumns.toNat → wrapped = false ∧ p.row = s.cur.row ∧ p.col.toNat = s.cur.col.toNat + 1)

/-- 41_cursor_state.md R93: a newline goes to column 0 of the next line from any column, from the last line to line 0. -/
def Obligations.NewlineGoesToTheNextLine : Prop :=
  ∀ s : State, s.inBounds →
    ∃ p, newline s = s.setCur p ∧ p.col = 0 ∧
      p.row.toNat = if s.cur.row.toNat + 1 = s.numLines.toNat then 0 else s.cur.row.toNat + 1

/-- 41_cursor_state.md R96: every function of the cursor state keeps both positions within the geometry. -/
def Obligations.CursorFunctionsKeepBounds : Prop :=
  ∀ (s : State) (p : Pos), s.inBounds →
    (advance s).2.inBounds ∧ (newline s).inBounds ∧ (restore s).inBounds ∧
    (s.within p → (moveTo p s).inBounds ∧ (saveAndMove p s).inBounds)

/-- 43_driver_ops.md R124 with 41_cursor_state.md R92 (and the source's E3): printing a string without a newline moves the cursor on by
its length, counted along the lines and around the display. -/
def Obligations.PrintingMovesByTheLength : Prop :=
  ∀ (s : State) (text : List Byte), s.inBounds → NEWLINE ∉ text →
    let t := s.typedAll text
    t.inBounds ∧
    t.cur.row.toNat * s.numColumns.toNat + t.cur.col.toNat =
      (s.cur.row.toNat * s.numColumns.toNat + s.cur.col.toNat + text.length) % (s.numLines.toNat * s.numColumns.toNat)

/-! The transport. -/

/-- 42_nibble_transport.md R104: a command goes out as four bytes, the high nibble first and E = 1 before E = 0, then a 5 ms delay
exactly when its value is at most 3; after a failing write nothing more goes out. -/
def Obligations.WriteCommandOutputs : Prop :=
  ∀ (cmd : Byte) (s : State),
    let hi := highNibble cmd
    let lo := lowNibble cmd
    let bytes : List Out := [.w (expanderBits hi s.backlight true false), .w (expanderBits hi s.backlight false false),
      .w (expanderBits lo s.backlight true false), .w (expanderBits lo s.backlight false false)]
    (3 < cmd.toNat → s.calm 4 0 → writeCommand cmd s = .done (s.emitted bytes)) ∧
    (cmd.toNat ≤ 3 → s.calm 4 1 → writeCommand cmd s = .done (s.emitted (bytes ++ [.d 5]))) ∧
    (∀ k e, k < 4 → s.failsAt k e 0 → writeCommand cmd s = .raised e (s.emitted (bytes.take (k + 1))))

/-- 42_nibble_transport.md R105: a data byte goes out as four bytes with RS = 1 and no delay, whatever its value. -/
def Obligations.WriteDataOutputs : Prop :=
  ∀ (d : Byte) (s : State),
    let hi := highNibble d
    let lo := lowNibble d
    let bytes : List Out := [.w (expanderBits hi s.backlight true true), .w (expanderBits hi s.backlight false true),
      .w (expanderBits lo s.backlight true true), .w (expanderBits lo s.backlight false true)]
    (s.calm 4 0 → writeData d s = .done (s.emitted bytes)) ∧
    (∀ k e, k < 4 → s.failsAt k e 0 → writeData d s = .raised e (s.emitted (bytes.take (k + 1))))

/-- 42_nibble_transport.md R106, R107: an initialization nibble goes out as n4, n0, whatever the backlight flag; the backlight write
is 08 or 00. -/
def Obligations.InitNibbleAndBacklightOutputs : Prop :=
  ∀ (n : Nibble) (s : State),
    let bytes : List Out := [.w (n ++ 0x4#4), .w (n ++ 0x0#4)]
    (s.calm 2 0 → writeInitNibble n s = .done (s.emitted bytes)) ∧
    (∀ k e, k < 2 → s.failsAt k e 0 → writeInitNibble n s = .raised e (s.emitted (bytes.take (k + 1)))) ∧
    (s.calm 1 0 → writeBacklight s = .done (s.emitted [.w (if s.backlight then 0x08 else 0x00)])) ∧
    (∀ e, s.failsAt 0 e 0 → writeBacklight s = .raised e (s.emitted [.w (if s.backlight then 0x08 else 0x00)]))

/-! The operations: where they complete, and what a failing write leaves. -/

/-- 43_driver_ops.md R113: CLEAR sends CLR and HOME, each with its settle delay, then sets the cursor to (0, 0); a failing write
leaves the cursor. -/
def Obligations.ClearSendsAndHomes : Prop :=
  encode .clear = .frame ⟨0x00000000, []⟩ ∧
  ∀ s : State, s.phase = .ready →
    let outs := outByte s.backlight false 0x01 ++ [.d 5] ++ outByte s.backlight false 0x02 ++ [.d 5]
    (s.calm 8 2 → exec .clear s = .next ((s.emitted outs).setCur ⟨0, 0⟩).succeeded) ∧
    (∀ k e, k < 8 → s.failsAt k e (delaysIn (upToWrite k outs)) →
      exec .clear s = .next ((s.emitted (upToWrite k outs)).failed e))

/-- 43_driver_ops.md R114 to R119: each of the six operations writes its one flag, then sends the display-control command of all
three flags as they stand; a failing write leaves the flag written. -/
def Obligations.FlagOperationsWriteThenSend : Prop :=
  ∀ s : State, s.phase = .ready →
    ∀ p ∈ [(Instr.cursorOn, 0x10000000#32, s.setCursor true), (.cursorOff, 0x20000000, s.setCursor false),
        (.blinkOn, 0x30000000, s.setBlink true), (.blinkOff, 0x40000000, s.setBlink false),
        (.displayOn, 0x50000000, s.setDisplay true), (.displayOff, 0x60000000, s.setDisplay false)],
      let u := p.2.2
      let outs := outByte s.backlight false (encDisplayControl u.display u.cursor u.blink)
      encode p.1 = .frame ⟨p.2.1, []⟩ ∧
      (s.calm 4 0 → exec p.1 s = .next (u.emitted outs).succeeded) ∧
      (∀ k e, k < 4 → s.failsAt k e 0 → exec p.1 s = .next ((u.emitted (outs.take (k + 1))).failed e))

/-- 43_driver_ops.md R120, R121: BACKLIGHT_ON and BACKLIGHT_OFF write the flag, then the one byte of the backlight line; a failing
write leaves the flag written. -/
def Obligations.BacklightOperationsWriteThenSend : Prop :=
  ∀ s : State, s.phase = .ready →
    ∀ p ∈ [(Instr.backlightOn, true), (.backlightOff, false)],
      let outs : List Out := [.w (if p.2 then 0x08 else 0x00)]
      (s.calm 1 0 → exec p.1 s = .next ((s.setBacklight p.2).emitted outs).succeeded) ∧
      (∀ e, s.failsAt 0 e 0 → exec p.1 s = .next (((s.setBacklight p.2).emitted outs).failed e))

/-- 43_driver_ops.md R122: MOVE within the geometry writes the cursor, with S = 1 the saved position before it, then sends the DDRAM
command; a failing write leaves the new positions. -/
def Obligations.MoveWritesThenSends : Prop :=
  ∀ (s : State) (save : Bool) (row : BitVec 2) (col : BitVec 6), s.phase = .ready → s.within ⟨row, col⟩ →
    let u := (if save then s.setSaved s.cur else s).setCur ⟨row, col⟩
    let outs := outCommand s.backlight (encDdram (displayAddress row col))
    (s.calm 4 0 → exec (.move save row col) s = .next (u.emitted outs).succeeded) ∧
    (∀ k e, k < 4 → s.failsAt k e 0 → exec (.move save row col) s = .next ((u.emitted (upToWrite k outs)).failed e))

/-- 43_driver_ops.md R123: PUTC sends the character as data, but for a newline, moves the cursor, and re-addresses where it wrapped.
A failing data write leaves the cursor; a failing re-address leaves it moved. -/
def Obligations.PutcSendsThenMoves : Prop :=
  ∀ (s : State) (ch : Byte), s.phase = .ready →
    let data := charData s.backlight ch
    let address := s.charAddress ch
    (s.calm (writesIn (data ++ address)) 0 → exec (.putc ch) s = .next (s.typed ch).succeeded) ∧
    (∀ k e, k < writesIn data → s.failsAt k e 0 → exec (.putc ch) s = .next ((s.emitted (upToWrite k data)).failed e)) ∧
    (∀ k e, k < writesIn address → s.failsAt (writesIn data + k) e 0 →
      exec (.putc ch) s = .next (((s.emitted (data ++ upToWrite k address)).setCur (s.posAfter ch)).failed e))

/-- 43_driver_ops.md R124: PUTS prints its characters in order; a fault in one of them leaves those before it printed, that one as
PUTC leaves it, and the rest untouched. The empty string sends nothing. -/
def Obligations.PutsPrintsInOrder : Prop :=
  ∀ (s : State) (text : List Byte), s.phase = .ready →
    (s.calm (writesIn (s.outsAll text)) 0 → exec (.puts text) s = .next (s.typedAll text).succeeded) ∧
    (∀ before ch after e v, text = before ++ ch :: after → s.calm (writesIn (s.outsAll before)) 0 →
      bodyPutc ch (s.typedAll before) = .raised e v → exec (.puts text) s = .next (v.failed e)) ∧
    exec (.puts []) s = .next s.succeeded

/-- 43_driver_ops.md R125: PUTS with coordinates saves the cursor, moves, re-addresses, prints, restores and re-addresses; the cursor
ends where it was. A fault leaves the cursor where the string stopped, and the position from before the call saved. -/
def Obligations.PutsAtRestoresTheCursor : Prop :=
  ∀ (s : State) (row : BitVec 2) (col : BitVec 6) (text : List Byte), s.phase = .ready → s.within ⟨row, col⟩ →
    let first := outCommand s.backlight (encDdram (displayAddress row col))
    let last := outCommand s.backlight (encDdram (displayAddress s.cur.row s.cur.col))
    let moved := (s.setSaved s.cur).setCur ⟨row, col⟩
    let start := moved.emitted first
    let n := 4 + writesIn (start.outsAll text)
    let restored := (start.typedAll text).setCur s.cur
    (s.calm (n + 4) 0 → exec (.putsAt row col text) s = .next (restored.emitted last).succeeded) ∧
    (∀ k e, k < 4 → s.failsAt k e 0 → exec (.putsAt row col text) s = .next ((moved.emitted (upToWrite k first)).failed e)) ∧
    (∀ before ch after e v, text = before ++ ch :: after → s.calm (4 + writesIn (start.outsAll before)) 0 →
      bodyPutc ch (start.typedAll before) = .raised e v →
        exec (.putsAt row col text) s = .next (v.failed e) ∧ v.saved = s.cur) ∧
    (∀ k e, k < 4 → s.failsAt (n + k) e 0 →
      exec (.putsAt row col text) s = .next ((restored.emitted (upToWrite k last)).failed e))

/-- 43_driver_ops.md R126: GLYPH sends the CGRAM command of the slot modulo 8, the eight bitmap bytes unmasked, and the DDRAM command
of the cursor, 40 writes and no delay; it writes no register but the status. -/
def Obligations.GlyphSendsFortyWrites : Prop :=
  ∀ (s : State) (slot8 : Byte) (bitmap : List Byte), s.phase = .ready → bitmap.length = 8 →
    let outs := outCommand s.backlight (0b01#2 ++ BitVec.ofNat 3 (slot8.toNat % 8) ++ 0#3) ++ bitmap.flatMap (outData s.backlight) ++
      outCommand s.backlight (encDdram s.cur.address)
    writesIn outs = 40 ∧ delaysIn outs = 0 ∧
    (s.calm 40 0 → exec (.glyph slot8 bitmap) s = .next (s.emitted outs).succeeded) ∧
    (∀ k e, k < 40 → s.failsAt k e 0 → exec (.glyph slot8 bitmap) s = .next ((s.emitted (upToWrite k outs)).failed e))

/-- 30_encoding.md R62, 60_exceptions.md R134: in READY the effect of a reserved opcode is the refusal IllegalEncoding. That it is an
instruction and its refusal a next state is log entry 10, DEDUCED. -/
def Obligations.ReservedOpcodesAreRefused : Prop :=
  ∀ (s : State) (rest : BitVec 28), s.phase = .ready →
    ∀ i ∈ [Instr.reservedD rest, .reservedE rest, .reservedF rest], exec i s = .next (s.refuse .illegalEncoding)

/-- 42_nibble_transport.md R104, R108 with 40_command_encoder.md R80 to R85: each command word sends its byte in any phase, CLR and
HOME with the settle delay; a failing write is taken as a TransportFault. -/
def Obligations.CommandWordsSend : Prop :=
  ∀ (s : State) (d c b n : Bool) (slot : BitVec 3) (addr : BitVec 7),
    ∀ p ∈ [(Instr.cmdClr, outByte s.backlight false 0x01 ++ [.d 5]), (.cmdHome, outByte s.backlight false 0x02 ++ [.d 5]),
        (.cmdEntryModeInc, outByte s.backlight false 0x06),
        (.cmdDisplayControl d c b, outByte s.backlight false (encDisplayControl d c b)),
        (.cmdFunctionSet n, outByte s.backlight false (if n then 0x28 else 0x20)),
        (.cmdCgramAddr slot, outByte s.backlight false (encCgram slot.toNat)),
        (.cmdDdramAddr addr, outByte s.backlight false (encDdram addr))],
      (s.calm 4 (delaysIn p.2) → exec p.1 s = .next (s.emitted p.2)) ∧
      (∀ k e, k < 4 → s.failsAt k e 0 → exec p.1 s = .next (takeFault e (s.emitted (upToWrite k p.2))))

/-- 42_nibble_transport.md R105, R106 with 30_encoding.md R69: the data word and the two initialization nibbles send their bytes. -/
def Obligations.DataAndNibbleWordsSend : Prop :=
  ∀ (s : State) (d : Byte),
    ∀ p ∈ [(Instr.dataByte d, outByte s.backlight true d), (.initNibbleReset, [Out.w 0x34, .w 0x30]),
        (.initNibbleFunction, [Out.w 0x24, .w 0x20])],
      (s.calm (writesIn p.2) 0 → exec p.1 s = .next (s.emitted p.2)) ∧
      (∀ k e, k < writesIn p.2 → s.failsAt k e 0 → exec p.1 s = .next (takeFault e (s.emitted (upToWrite k p.2))))

/-- 42_nibble_transport.md R100 with 30_encoding.md R72, R75: each expander word is one bus write of its byte, the event recorded
whether or not the write fails. -/
def Obligations.ExpanderWordsSend : Prop :=
  ∀ (s : State) (nibble : Nibble) (bl e rs : Bool),
    ∀ p ∈ [(Instr.expanderNibbleByte nibble bl e rs, expanderBits nibble bl e rs), (.expanderIdle, 0x00),
        (.expanderBacklight bl, if bl then 0x08 else 0x00)],
      (s.calm 1 0 → exec p.1 s = .next (s.emitted [.w p.2])) ∧
      (∀ f, s.failsAt 0 f 0 → exec p.1 s = .next (takeFault f (s.emitted [.w p.2])))

/-! Refusals and holds. -/

/-- 60_exceptions.md R134: in READY, coordinates outside the geometry are refused OutOfRange, with nothing sent and no state of the
architecture changed. -/
def Obligations.OutOfRangeIsRefused : Prop :=
  ∀ (s : State) (save : Bool) (row : BitVec 2) (col : BitVec 6) (text : List Byte),
    s.phase = .ready → ¬ s.within ⟨row, col⟩ →
    ∀ i ∈ [Instr.move save row col, .putsAt row col text],
      ∃ t, exec i s = .next t ∧ t = { s with refused := true, replies := s.replies ++ [.refused .outOfRange] }

/-- 60_exceptions.md R136: the phase is checked before the encoding, the encoding before the range. That a refusal is a next state is
log entry 10, DEDUCED. -/
def Obligations.RefusalPriority : Prop :=
  ∀ (s : State) (f : Frame) (rest : List Frame), s.onProgram → s.resetReq = none → s.frames = f :: rest →
    (s.phase = .initFailed → step s = .next ((s.setFrames rest).refuse .notReady)) ∧
    (s.phase = .ready → illegalHeader f.header → step s = .next ((s.setFrames rest).refuse .illegalEncoding))

/-- 60_exceptions.md R135: before READY no frame is accepted: each step leaves the operation port and the replies alone. -/
def Obligations.FramesAreHeldBeforeReady : Prop :=
  ∀ s t : State, s.phase.gate = .hold → step s = .next t → t.frames = s.frames ∧ t.replies = s.replies

/-- 60_exceptions.md R130, 43_driver_ops.md R110: an operation run in READY ends in exactly one way: OK with that status returned, FAULT
with the fault recorded, refused with nothing sent and the status left, or abandoned to a reset with nothing returned. -/
def Obligations.OneOutcomePerOperation : Prop :=
  ∀ (i : Instr) (s t : State), isFrame i → s.phase = .ready → s.resetReq = none → exec i s = .next t →
    (t.resetReq = none ∧ t.status = .ok ∧ t.replies = s.replies ++ [.completed .ok]) ∨
    (∃ e, t.resetReq = none ∧ t.status = .fault e ∧ t.faultSeen = true ∧ t.replies = s.replies ++ [.completed (.fault e)]) ∨
    (∃ r, t = { s with refused := true, replies := s.replies ++ [.refused r] }) ∨
    (∃ p, t.resetReq = some p ∧ t.status = s.status ∧ t.replies = s.replies)

/-! Faults. -/

/-- 60_exceptions.md R137, R138: with the same operands, registers and configuration, the trace of a run in which something goes wrong
is a beginning of the trace of the run in which nothing does: nothing is sent again and nothing else is sent. -/
def Obligations.FaultedTraceIsABeginning : Prop :=
  ∀ (i : Instr) (s s' t t' : State), s' = { s with bus := s'.bus, timer := s'.timer } →
    s.faultSeen = false → s.resetReq = none → exec i s = .next t → exec i s' = .next t' →
    t'.faultSeen = false → t'.resetReq = none → t.trace <+: t'.trace

/-- 60_exceptions.md R148 (95_test_vectors.md V-INIT-5): where a write of a statement of initialization is the first to fail, with e,
the step ends there: the trace ends at that write, the registers the statement wrote before it stay, and the engine is in INIT_FAILED
with FAULT(e). A step of initialization that sets the fault mark is always one of these. -/
def Obligations.InitFaultEndsInInitFailed : Prop :=
  ∀ (s : State) (st : Stmt) (rest : List Stmt), s.phase.gate = .hold → s.phase ≠ .uninit → s.onProgram → s.resetReq = none →
    s.statements = st :: rest →
    let u := s.stmtWrites st
    let outs := u.outStmt st
    (∀ k e, k < writesIn outs → s.failsAt k e (delaysIn (upToWrite k outs)) →
      step s = .next ((u.emitted (upToWrite k outs)).initFault e)) ∧
    (∀ t, s.faultSeen = false → step s = .next t → t.faultSeen = true →
      ∃ k e, k < writesIn outs ∧ s.failsAt k e (delaysIn (upToWrite k outs)) ∧ t = (u.emitted (upToWrite k outs)).initFault e)

/-- 60_exceptions.md R148, 70_reset_and_hazards.md R158: INIT_FAILED lasts until the next reset; a frame is refused NotReady, without
a frame nothing happens (log entry 22), and nothing is sent. That the refusal is a next state is log entry 10, DEDUCED. -/
def Obligations.InitFailedLastsUntilReset : Prop :=
  ∀ s : State, s.phase = .initFailed → s.onProgram → s.resetReq = none →
    (s.frames = [] → step s = .next s) ∧
    (∀ f rest, s.frames = f :: rest →
      step s = .next { s with frames := rest, refused := true, replies := s.replies ++ [.refused .notReady] })

/-- 10_state.md R28: no step but a reset clears a ghost bit. -/
def Obligations.GhostBitsStay : Prop :=
  ∀ s t : State, s.resetReq = none → step s = .next t →
    (s.faultSeen = true → t.faultSeen = true) ∧ (s.refused = true → t.refused = true)

/-- 10_state.md R28: the ghost bits, the status and the replies hold no hardware state: what an instruction or a step does to everything
else, and whether a step stops, does not depend on them. -/
def Obligations.GhostBitsDoNotSteer : Prop :=
  (∀ (i : Instr) (s s' t t' : State), s.unmarked = s'.unmarked → exec i s = .next t → exec i s' = .next t' →
    t.unmarked = t'.unmarked) ∧
  (∀ s s' t : State, s.unmarked = s'.unmarked → step s = .next t → ∃ t', step s' = .next t' ∧ t.unmarked = t'.unmarked) ∧
  (∀ (s s' : State) (r : Refusal), s.unmarked = s'.unmarked → step s = .refused r → step s' = .refused r)

/-! Reset and initialization. -/

/-- 10_state.md R34, 70_reset_and_hazards.md R150: a reset with parameters within their domains loads every element, in phase UNINIT;
released, the engine stands in POWERUP. That the records and the ports stay is log entry 27, and that the next step is the release is
log entry 26, both the model's choice. -/
def Obligations.ResetValues : Prop :=
  ∀ (s : State) (p : Params), s.resetReq = some p → paramsValid p = true →
    ∃ t, step s = .next t ∧ t.numLines = clampLines p ∧ t.numColumns = clampColumns p ∧ t.i2cAddr = p.i2cAddr ∧
      t.cur = ⟨0, 0⟩ ∧ t.saved = ⟨0, 0⟩ ∧ t.backlight = p.backlight ∧ t.display = false ∧ t.cursor = p.cursor ∧ t.blink = p.blink ∧
      t.phase = .uninit ∧ t.status = .ok ∧ t.faultSeen = false ∧ t.refused = false ∧
      t.seq = [] ∧ t.resetReq = none ∧
      t.trace = s.trace ∧ t.bus = s.bus ∧ t.timer = s.timer ∧ t.replies = s.replies ∧ t.frames = s.frames ∧
      step t = .next (t.setPhase .powerUp)

/-- 00_scope.md R9: a reset clamps the requested geometry and does not reject it; a request of 0 lines or 0 columns is refused. That
the refusal stops the step is log entry 8, DEDUCED. -/
def Obligations.GeometryIsClamped : Prop :=
  ∀ (s : State) (p : Params), s.resetReq = some p →
    (1 ≤ p.lines → 1 ≤ p.columns →
      ∃ t, step s = .next t ∧ t.numLines.toNat = min p.lines 4 ∧ t.numColumns.toNat = min p.columns 40) ∧
    ((p.lines = 0 ∨ p.columns = 0) → step s = .refused .zeroGeometry)

/-- 70_reset_and_hazards.md R150: a reset that comes while an instruction waits abandons it: its status is neither written nor
returned, what it sent stands, and the next step is the reset. -/
def Obligations.ResetAbandonsTheOperation : Prop :=
  ∀ (i : Instr) (s t : State) (p : Params), s.resetReq = none → exec i s = .next t → t.resetReq = some p →
    t.status = s.status ∧ t.replies = s.replies ∧ t.faultSeen = s.faultSeen ∧ s.trace <+: t.trace ∧ step t = assertReset p t

/-- 70_reset_and_hazards.md R151 to R153: the first five phases, one after the other, in a calm environment. -/
def Obligations.InitPhasesSend : Prop :=
  ∀ (s : State), s.seq = [] → s.resetReq = none →
    ∀ p ∈ [(Phase.powerUp, ([.w 0x00, .d 20] : List Out), Phase.modeReset1),
        (.modeReset1, [.w 0x34, .w 0x30, .d 5], .modeReset2), (.modeReset2, [.w 0x34, .w 0x30, .d 1], .modeReset3),
        (.modeReset3, [.w 0x34, .w 0x30, .d 1], .fourBit), (.fourBit, [.w 0x24, .w 0x20, .d 1], .configured)],
      s.phase = p.1 → s.calm (writesIn p.2.1) 1 →
        Host.Core.run Sys2Proof.core 3 s = .next ((s.emitted p.2.1).setPhase p.2.2)

/-- 70_reset_and_hazards.md R154, R155: the base initializer and the final function set, in a calm environment. -/
def Obligations.ConfiguredPhaseSends : Prop :=
  ∀ s : State, s.phase = .configured → s.seq = [] → s.resetReq = none → s.calm 29 2 →
    let outs := outCommand s.backlight (encDisplayControl false s.cursor s.blink) ++ [.w 0x08] ++ outCommand true 0x01 ++
      outCommand true 0x02 ++ outCommand true 0x06 ++ outCommand true (encDisplayControl false false s.blink) ++
      outCommand true (encDisplayControl true false s.blink) ++ outCommand true (if s.numLines.toNat > 1 then 0x28 else 0x20)
    Host.Core.run Sys2Proof.core 8 s =
      .next { s.emitted outs with cur := ⟨0, 0⟩, backlight := true, display := true, cursor := false, phase := .ready }

/-- 70_reset_and_hazards.md R157: initialization in a calm environment reaches READY with the state of the rule, after 38 writes and 7
delays. -/
def Obligations.InitReachesReady : Prop :=
  ∀ (s : State) (p : Params), paramsValid p = true → s.calm 38 7 →
    ∃ t outs, Host.Core.run Sys2Proof.core 23 (s.resetWith p) = .next t ∧
      t.cur = ⟨0, 0⟩ ∧ t.saved = ⟨0, 0⟩ ∧ t.backlight = true ∧ t.display = true ∧ t.cursor = false ∧ t.blink = p.blink ∧
      t.status = .ok ∧ t.faultSeen = false ∧ t.refused = false ∧ t.phase = .ready ∧ t.readyIdle ∧
      t.trace = s.trace ++ outs.map (Out.event p.i2cAddr) ∧ writesIn outs = 38 ∧ delaysIn outs = 7

/-- 70_reset_and_hazards.md R158: the phases change only as the table says; a step may also stay in the phase, inside it or waiting. -/
def Obligations.PhaseTransitions : Prop :=
  ∀ s t : State, s.onProgram → step s = .next t →
    t.phase = s.phase ∨ (s.resetReq ≠ none ∧ t.phase = .uninit) ∨
    (s.phase, t.phase) ∈ [(Phase.uninit, Phase.powerUp), (.powerUp, .modeReset1), (.modeReset1, .modeReset2),
      (.modeReset2, .modeReset3), (.modeReset3, .fourBit), (.fourBit, .configured), (.configured, .ready),
      (.powerUp, .initFailed), (.modeReset1, .initFailed), (.modeReset2, .initFailed), (.modeReset3, .initFailed),
      (.fourBit, .initFailed), (.configured, .initFailed)]

/-- 10_state.md R36: READY stays until a reset, through every instruction and every fault, and no operation changes the phase,
whatever phase it is presented in. That refused frames (log entry 10) and the words of Parts B and C (log entry 14) are instructions
with a next state is DEDUCED. -/
def Obligations.ReadyStays : Prop :=
  (∀ (i : Instr) (s : State), s.phase = .ready → ∃ t, exec i s = .next t ∧ t.phase = .ready) ∧
  (∀ (i : Instr) (s t : State), isFrame i → exec i s = .next t → t.phase = s.phase) ∧
  (∀ s t : State, s.readyIdle → step s = .next t → t.phase = .ready)

/-! Invariants. -/

/-- 10_state.md R23, R28, 00_scope.md R9, 70_reset_and_hazards.md R156: the invariant holds right after every reset. -/
def Obligations.InvHoldsAfterReset : Prop :=
  State.reset.Inv ∧ ∀ (s : State) (p : Params), paramsValid p = true → (load p s).Inv ∧ (s.resetWith p).Inv

/-- 10_state.md R23: every step keeps the positions within the geometry, the sequence on its program and the fault marks. -/
def Obligations.StepKeepsInv : Prop :=
  ∀ s t : State, s.Inv → step s = .next t → t.Inv

/-- 20_memory.md R40, R50 and 30_encoding.md R73: a step only adds to the trace; every write it adds goes to I2C_ADDR with RW = 0.
That an event carries its address is log entry 25, that the trace stands across a reset log entry 27, both the model's choice. -/
def Obligations.TraceGrowsWithPlainWrites : Prop :=
  ∀ s t : State, step s = .next t →
    ∃ events, t.trace = s.trace ++ events ∧ ∀ ev ∈ events, ev.plainWrite s.i2cAddr

/-! What an instruction leaves alone, however it ends. -/

/-- 10_state.md R24, 43_driver_ops.md R114 to R121: a flag operation changes no position, no geometry, no phase, and no flag but its
own. -/
def Obligations.FlagOperationsFrame : Prop :=
  ∀ s t : State, ∀ i ∈ [Instr.cursorOn, .cursorOff, .blinkOn, .blinkOff, .displayOn, .displayOff, .backlightOn, .backlightOff],
    exec i s = .next t →
      s.keepsConfig t ∧ s.keepsPositions t ∧ t.phase = s.phase ∧
      (i ≠ .backlightOn → i ≠ .backlightOff → t.backlight = s.backlight) ∧ (i ≠ .displayOn → i ≠ .displayOff → t.display = s.display) ∧
      (i ≠ .cursorOn → i ≠ .cursorOff → t.cursor = s.cursor) ∧ (i ≠ .blinkOn → i ≠ .blinkOff → t.blink = s.blink)

/-- 43_driver_ops.md R113, R122 to R125: CLEAR, MOVE, PUTC and the PUTS forms change no flag, no geometry and no phase, and only MOVE with
S = 1 and PUTS with coordinates change the saved position. -/
def Obligations.TextOperationsFrame : Prop :=
  ∀ (s t : State) (save : Bool) (row : BitVec 2) (col : BitVec 6) (ch : Byte) (text : List Byte),
    ∀ i ∈ [Instr.clear, .move save row col, .putc ch, .puts text, .putsAt row col text],
      exec i s = .next t →
        s.keepsConfig t ∧ s.keepsFlags t ∧ t.phase = s.phase ∧
        (t.saved = s.saved ∨ (t.saved = s.cur ∧ (i = .move true row col ∨ i = .putsAt row col text)))

/-- 43_driver_ops.md R126, 30_encoding.md R62, 42_nibble_transport.md R100 to R107: GLYPH, the reserved opcodes and the words of Parts B
and C change no position, no flag and no geometry. -/
def Obligations.SendingFrame : Prop :=
  ∀ (i : Instr) (s t : State),
    (∀ save row col ch text, i ∉ [Instr.clear, .cursorOn, .cursorOff, .blinkOn, .blinkOff, .displayOn, .displayOff, .backlightOn,
      .backlightOff, .move save row col, .putc ch, .puts text, .putsAt row col text]) →
    exec i s = .next t → s.keepsConfig t ∧ s.keepsPositions t ∧ s.keepsFlags t

/-! Steps. -/

/-- 10_state.md R37, 43_driver_ops.md R110, 60_exceptions.md R137: with no reset pending, the step of an engine in READY takes the frame
from the operation port and runs the instruction it decodes to; while a word of its own sequence is next, the step runs that word's
instruction; in READY with neither the engine waits, and a step changes nothing. -/
def Obligations.StepRunsTheDecodedInstruction : Prop :=
  ∀ (s : State) (i : Instr), s.resetReq = none →
    (∀ f rest, s.phase = .ready → s.seq = [] → s.frames = f :: rest → decodeFrame f = .ok i →
      step s = exec i (s.setFrames rest)) ∧
    (∀ w rest, s.phase ≠ .uninit → s.seq = .send w :: rest → decodeWord w = .ok i → step s = exec i (s.setSeq rest)) ∧
    (s.phase = .ready → s.seq = [] → s.frames = [] → step s = .next s)

/-- The placing that the pipeline uses (log entry 5, the model's own): an instruction with an encoding, placed, is what the next step
runs. -/
def Obligations.PlacedInstructionRuns : Prop :=
  ∀ (i : Instr) (s : State), i.wellFormed = true →
    ∃ u, step (s.place (encode i)) = exec i u ∧ u.cur = s.cur ∧ u.trace = s.trace ∧ u.bus = s.bus ∧ u.frames = s.frames

/-- 10_state.md R26, R27, R33: the snapshot shows the registers, the flags packed in the rule's order and the phase by its number.
Nothing is said of it while a reset is pending (log entry 23). -/
def Obligations.SnapshotShowsTheRegisters : Prop :=
  ∀ s : State, s.resetReq = none →
    ∃ v, s.snapshot = some v ∧ v.cur = s.cur ∧ v.saved = s.saved ∧ v.status = s.status ∧
      (s.phase, v.phase) ∈ [(Phase.uninit, 0#4), (.powerUp, 1), (.modeReset1, 2), (.modeReset2, 3), (.modeReset3, 4), (.fourBit, 5),
        (.configured, 6), (.ready, 7), (.initFailed, 8)] ∧
      v.numLines = s.numLines ∧ v.numColumns = s.numColumns ∧
      v.flags.getLsbD 3 = s.backlight ∧ v.flags.getLsbD 2 = s.display ∧ v.flags.getLsbD 1 = s.cursor ∧ v.flags.getLsbD 0 = s.blink

/-- 30_encoding.md R63, R79: what the assembler makes of a line has an encoding, and the pseudo-operations are what the rule says. -/
def Obligations.AssemblerMakesEncodableOperations : Prop :=
  (∀ l i, assemble l = .ok i → i.wellFormed = true ∧ isFrame i) ∧
  assemble .newline = .ok (.putc 0x0A) ∧ assemble .homeCursor = .ok (.move false 0 0) ∧
  (∀ row col text, assemble (.printAt row col text) = assemble (.putsAt row col text)) ∧
  (∀ text, 255 < text.length → assemble (.puts text) = .error .stringTooLong)

/-! The controller that reads the trace (PRESUMED, log entry 18). -/

/-- 10_state.md R35: in READY, between operations, as long as no fault is seen, the controller's DDRAM address is that of the cursor and
its display-control setting is that of the flags. -/
def Obligations.ReadyKeepsTheControllerInStep : Prop :=
  ∀ (c : Controller) (s t : State), s.readyIdle → s.inBounds → Synced (c.run s.trace) s → step s = .next t →
    t.faultSeen = false → t.resetReq = none → Synced (c.run t.trace) t

/-- 70_reset_and_hazards.md R157, R152: whatever state the controller was in, initialization leaves it on the 4-bit interface, counting
up, in the line mode of the geometry and in step with the engine. -/
def Obligations.InitBringsTheControllerIntoStep : Prop :=
  ∀ (c : Controller) (s t : State) (p : Params), paramsValid p = true → s.calm 38 7 →
    Host.Core.run Sys2Proof.core 23 (s.resetWith p) = .next t →
    Synced (c.run t.trace) t ∧ (c.run t.trace).twoLine = decide (1 < t.numLines.toNat)

/-- 20_memory.md R42, 43_driver_ops.md R123: a printed character stands in DDRAM at the address of the cursor before it, and every other
cell of DDRAM and all of CGRAM is as before. -/
def Obligations.PrintedCharacterStandsInDdram : Prop :=
  ∀ (c : Controller) (s t : State) (ch : Byte), s.phase = .ready → s.resetReq = none → Synced (c.run s.trace) s → ch ≠ NEWLINE →
    exec (.putc ch) s = .next t → t.faultSeen = false → t.resetReq = none →
    Memory.read (c.run t.trace).ddram s.cur.address.toNat = some ch ∧
    (∀ a, a ≠ s.cur.address.toNat → Memory.read (c.run t.trace).ddram a = Memory.read (c.run s.trace).ddram a) ∧
    (c.run t.trace).cgram = (c.run s.trace).cgram

/-- 20_memory.md R43, 43_driver_ops.md R126: byte i of a bitmap stands in CGRAM at row i of its slot, every other cell of CGRAM and all
of DDRAM is as before. -/
def Obligations.GlyphStandsInCgram : Prop :=
  ∀ (c : Controller) (s t : State) (slot8 : Byte) (bitmap : List Byte), s.phase = .ready → s.resetReq = none →
    Synced (c.run s.trace) s → bitmap.length = 8 → exec (.glyph slot8 bitmap) s = .next t → t.faultSeen = false → t.resetReq = none →
    (∀ i, i < 8 → Memory.read (c.run t.trace).cgram (slot8.toNat % 8 * 8 + i) = bitmap[i]?) ∧
    (∀ a, (∀ i, i < 8 → a ≠ slot8.toNat % 8 * 8 + i) →
      Memory.read (c.run t.trace).cgram a = Memory.read (c.run s.trace).cgram a) ∧
    (c.run t.trace).ddram = (c.run s.trace).ddram

/-- Log entry 18 (the model's own): the cells known of DDRAM and CGRAM stay in canonical form along any trace. -/
def Obligations.ControllerMemoryStaysCanonical : Prop :=
  ∀ (c : Controller) (trace : List Event), Memory.wf c.ddram = true → Memory.wf c.cgram = true →
    Memory.wf (c.run trace).ddram = true ∧ Memory.wf (c.run trace).cgram = true
end

