-- ==== Sys2Proof/Laws/State.lean ====
section
/-! SUPPORT. Every field after every update, by rfl, so that no proof unfolds a record update. -/

namespace Sys2Proof.Machine

variable (s : State)

@[simp] theorem State.setCur_numLines (p : Pos) : (s.setCur p).numLines = s.numLines := rfl
@[simp] theorem State.setCur_numColumns (p : Pos) : (s.setCur p).numColumns = s.numColumns := rfl
@[simp] theorem State.setCur_i2cAddr (p : Pos) : (s.setCur p).i2cAddr = s.i2cAddr := rfl
@[simp] theorem State.setCur_cur (p : Pos) : (s.setCur p).cur = p := rfl
@[simp] theorem State.setCur_saved (p : Pos) : (s.setCur p).saved = s.saved := rfl
@[simp] theorem State.setCur_backlight (p : Pos) : (s.setCur p).backlight = s.backlight := rfl
@[simp] theorem State.setCur_display (p : Pos) : (s.setCur p).display = s.display := rfl
@[simp] theorem State.setCur_cursor (p : Pos) : (s.setCur p).cursor = s.cursor := rfl
@[simp] theorem State.setCur_blink (p : Pos) : (s.setCur p).blink = s.blink := rfl
@[simp] theorem State.setCur_phase (p : Pos) : (s.setCur p).phase = s.phase := rfl
@[simp] theorem State.setCur_status (p : Pos) : (s.setCur p).status = s.status := rfl
@[simp] theorem State.setCur_faultSeen (p : Pos) : (s.setCur p).faultSeen = s.faultSeen := rfl
@[simp] theorem State.setCur_refused (p : Pos) : (s.setCur p).refused = s.refused := rfl
@[simp] theorem State.setCur_seq (p : Pos) : (s.setCur p).seq = s.seq := rfl
@[simp] theorem State.setCur_frames (p : Pos) : (s.setCur p).frames = s.frames := rfl
@[simp] theorem State.setCur_resetReq (p : Pos) : (s.setCur p).resetReq = s.resetReq := rfl
@[simp] theorem State.setCur_bus (p : Pos) : (s.setCur p).bus = s.bus := rfl
@[simp] theorem State.setCur_timer (p : Pos) : (s.setCur p).timer = s.timer := rfl
@[simp] theorem State.setCur_trace (p : Pos) : (s.setCur p).trace = s.trace := rfl
@[simp] theorem State.setCur_replies (p : Pos) : (s.setCur p).replies = s.replies := rfl

@[simp] theorem State.setSaved_numLines (p : Pos) : (s.setSaved p).numLines = s.numLines := rfl
@[simp] theorem State.setSaved_numColumns (p : Pos) : (s.setSaved p).numColumns = s.numColumns := rfl
@[simp] theorem State.setSaved_i2cAddr (p : Pos) : (s.setSaved p).i2cAddr = s.i2cAddr := rfl
@[simp] theorem State.setSaved_cur (p : Pos) : (s.setSaved p).cur = s.cur := rfl
@[simp] theorem State.setSaved_saved (p : Pos) : (s.setSaved p).saved = p := rfl
@[simp] theorem State.setSaved_backlight (p : Pos) : (s.setSaved p).backlight = s.backlight := rfl
@[simp] theorem State.setSaved_display (p : Pos) : (s.setSaved p).display = s.display := rfl
@[simp] theorem State.setSaved_cursor (p : Pos) : (s.setSaved p).cursor = s.cursor := rfl
@[simp] theorem State.setSaved_blink (p : Pos) : (s.setSaved p).blink = s.blink := rfl
@[simp] theorem State.setSaved_phase (p : Pos) : (s.setSaved p).phase = s.phase := rfl
@[simp] theorem State.setSaved_status (p : Pos) : (s.setSaved p).status = s.status := rfl
@[simp] theorem State.setSaved_faultSeen (p : Pos) : (s.setSaved p).faultSeen = s.faultSeen := rfl
@[simp] theorem State.setSaved_refused (p : Pos) : (s.setSaved p).refused = s.refused := rfl
@[simp] theorem State.setSaved_seq (p : Pos) : (s.setSaved p).seq = s.seq := rfl
@[simp] theorem State.setSaved_frames (p : Pos) : (s.setSaved p).frames = s.frames := rfl
@[simp] theorem State.setSaved_resetReq (p : Pos) : (s.setSaved p).resetReq = s.resetReq := rfl
@[simp] theorem State.setSaved_bus (p : Pos) : (s.setSaved p).bus = s.bus := rfl
@[simp] theorem State.setSaved_timer (p : Pos) : (s.setSaved p).timer = s.timer := rfl
@[simp] theorem State.setSaved_trace (p : Pos) : (s.setSaved p).trace = s.trace := rfl
@[simp] theorem State.setSaved_replies (p : Pos) : (s.setSaved p).replies = s.replies := rfl

@[simp] theorem State.setBacklight_numLines (v : Bool) : (s.setBacklight v).numLines = s.numLines := rfl
@[simp] theorem State.setBacklight_numColumns (v : Bool) : (s.setBacklight v).numColumns = s.numColumns := rfl
@[simp] theorem State.setBacklight_i2cAddr (v : Bool) : (s.setBacklight v).i2cAddr = s.i2cAddr := rfl
@[simp] theorem State.setBacklight_cur (v : Bool) : (s.setBacklight v).cur = s.cur := rfl
@[simp] theorem State.setBacklight_saved (v : Bool) : (s.setBacklight v).saved = s.saved := rfl
@[simp] theorem State.setBacklight_backlight (v : Bool) : (s.setBacklight v).backlight = v := rfl
@[simp] theorem State.setBacklight_display (v : Bool) : (s.setBacklight v).display = s.display := rfl
@[simp] theorem State.setBacklight_cursor (v : Bool) : (s.setBacklight v).cursor = s.cursor := rfl
@[simp] theorem State.setBacklight_blink (v : Bool) : (s.setBacklight v).blink = s.blink := rfl
@[simp] theorem State.setBacklight_phase (v : Bool) : (s.setBacklight v).phase = s.phase := rfl
@[simp] theorem State.setBacklight_status (v : Bool) : (s.setBacklight v).status = s.status := rfl
@[simp] theorem State.setBacklight_faultSeen (v : Bool) : (s.setBacklight v).faultSeen = s.faultSeen := rfl
@[simp] theorem State.setBacklight_refused (v : Bool) : (s.setBacklight v).refused = s.refused := rfl
@[simp] theorem State.setBacklight_seq (v : Bool) : (s.setBacklight v).seq = s.seq := rfl
@[simp] theorem State.setBacklight_frames (v : Bool) : (s.setBacklight v).frames = s.frames := rfl
@[simp] theorem State.setBacklight_resetReq (v : Bool) : (s.setBacklight v).resetReq = s.resetReq := rfl
@[simp] theorem State.setBacklight_bus (v : Bool) : (s.setBacklight v).bus = s.bus := rfl
@[simp] theorem State.setBacklight_timer (v : Bool) : (s.setBacklight v).timer = s.timer := rfl
@[simp] theorem State.setBacklight_trace (v : Bool) : (s.setBacklight v).trace = s.trace := rfl
@[simp] theorem State.setBacklight_replies (v : Bool) : (s.setBacklight v).replies = s.replies := rfl

@[simp] theorem State.setDisplay_numLines (v : Bool) : (s.setDisplay v).numLines = s.numLines := rfl
@[simp] theorem State.setDisplay_numColumns (v : Bool) : (s.setDisplay v).numColumns = s.numColumns := rfl
@[simp] theorem State.setDisplay_i2cAddr (v : Bool) : (s.setDisplay v).i2cAddr = s.i2cAddr := rfl
@[simp] theorem State.setDisplay_cur (v : Bool) : (s.setDisplay v).cur = s.cur := rfl
@[simp] theorem State.setDisplay_saved (v : Bool) : (s.setDisplay v).saved = s.saved := rfl
@[simp] theorem State.setDisplay_backlight (v : Bool) : (s.setDisplay v).backlight = s.backlight := rfl
@[simp] theorem State.setDisplay_display (v : Bool) : (s.setDisplay v).display = v := rfl
@[simp] theorem State.setDisplay_cursor (v : Bool) : (s.setDisplay v).cursor = s.cursor := rfl
@[simp] theorem State.setDisplay_blink (v : Bool) : (s.setDisplay v).blink = s.blink := rfl
@[simp] theorem State.setDisplay_phase (v : Bool) : (s.setDisplay v).phase = s.phase := rfl
@[simp] theorem State.setDisplay_status (v : Bool) : (s.setDisplay v).status = s.status := rfl
@[simp] theorem State.setDisplay_faultSeen (v : Bool) : (s.setDisplay v).faultSeen = s.faultSeen := rfl
@[simp] theorem State.setDisplay_refused (v : Bool) : (s.setDisplay v).refused = s.refused := rfl
@[simp] theorem State.setDisplay_seq (v : Bool) : (s.setDisplay v).seq = s.seq := rfl
@[simp] theorem State.setDisplay_frames (v : Bool) : (s.setDisplay v).frames = s.frames := rfl
@[simp] theorem State.setDisplay_resetReq (v : Bool) : (s.setDisplay v).resetReq = s.resetReq := rfl
@[simp] theorem State.setDisplay_bus (v : Bool) : (s.setDisplay v).bus = s.bus := rfl
@[simp] theorem State.setDisplay_timer (v : Bool) : (s.setDisplay v).timer = s.timer := rfl
@[simp] theorem State.setDisplay_trace (v : Bool) : (s.setDisplay v).trace = s.trace := rfl
@[simp] theorem State.setDisplay_replies (v : Bool) : (s.setDisplay v).replies = s.replies := rfl

@[simp] theorem State.setCursor_numLines (v : Bool) : (s.setCursor v).numLines = s.numLines := rfl
@[simp] theorem State.setCursor_numColumns (v : Bool) : (s.setCursor v).numColumns = s.numColumns := rfl
@[simp] theorem State.setCursor_i2cAddr (v : Bool) : (s.setCursor v).i2cAddr = s.i2cAddr := rfl
@[simp] theorem State.setCursor_cur (v : Bool) : (s.setCursor v).cur = s.cur := rfl
@[simp] theorem State.setCursor_saved (v : Bool) : (s.setCursor v).saved = s.saved := rfl
@[simp] theorem State.setCursor_backlight (v : Bool) : (s.setCursor v).backlight = s.backlight := rfl
@[simp] theorem State.setCursor_display (v : Bool) : (s.setCursor v).display = s.display := rfl
@[simp] theorem State.setCursor_cursor (v : Bool) : (s.setCursor v).cursor = v := rfl
@[simp] theorem State.setCursor_blink (v : Bool) : (s.setCursor v).blink = s.blink := rfl
@[simp] theorem State.setCursor_phase (v : Bool) : (s.setCursor v).phase = s.phase := rfl
@[simp] theorem State.setCursor_status (v : Bool) : (s.setCursor v).status = s.status := rfl
@[simp] theorem State.setCursor_faultSeen (v : Bool) : (s.setCursor v).faultSeen = s.faultSeen := rfl
@[simp] theorem State.setCursor_refused (v : Bool) : (s.setCursor v).refused = s.refused := rfl
@[simp] theorem State.setCursor_seq (v : Bool) : (s.setCursor v).seq = s.seq := rfl
@[simp] theorem State.setCursor_frames (v : Bool) : (s.setCursor v).frames = s.frames := rfl
@[simp] theorem State.setCursor_resetReq (v : Bool) : (s.setCursor v).resetReq = s.resetReq := rfl
@[simp] theorem State.setCursor_bus (v : Bool) : (s.setCursor v).bus = s.bus := rfl
@[simp] theorem State.setCursor_timer (v : Bool) : (s.setCursor v).timer = s.timer := rfl
@[simp] theorem State.setCursor_trace (v : Bool) : (s.setCursor v).trace = s.trace := rfl
@[simp] theorem State.setCursor_replies (v : Bool) : (s.setCursor v).replies = s.replies := rfl

@[simp] theorem State.setBlink_numLines (v : Bool) : (s.setBlink v).numLines = s.numLines := rfl
@[simp] theorem State.setBlink_numColumns (v : Bool) : (s.setBlink v).numColumns = s.numColumns := rfl
@[simp] theorem State.setBlink_i2cAddr (v : Bool) : (s.setBlink v).i2cAddr = s.i2cAddr := rfl
@[simp] theorem State.setBlink_cur (v : Bool) : (s.setBlink v).cur = s.cur := rfl
@[simp] theorem State.setBlink_saved (v : Bool) : (s.setBlink v).saved = s.saved := rfl
@[simp] theorem State.setBlink_backlight (v : Bool) : (s.setBlink v).backlight = s.backlight := rfl
@[simp] theorem State.setBlink_display (v : Bool) : (s.setBlink v).display = s.display := rfl
@[simp] theorem State.setBlink_cursor (v : Bool) : (s.setBlink v).cursor = s.cursor := rfl
@[simp] theorem State.setBlink_blink (v : Bool) : (s.setBlink v).blink = v := rfl
@[simp] theorem State.setBlink_phase (v : Bool) : (s.setBlink v).phase = s.phase := rfl
@[simp] theorem State.setBlink_status (v : Bool) : (s.setBlink v).status = s.status := rfl
@[simp] theorem State.setBlink_faultSeen (v : Bool) : (s.setBlink v).faultSeen = s.faultSeen := rfl
@[simp] theorem State.setBlink_refused (v : Bool) : (s.setBlink v).refused = s.refused := rfl
@[simp] theorem State.setBlink_seq (v : Bool) : (s.setBlink v).seq = s.seq := rfl
@[simp] theorem State.setBlink_frames (v : Bool) : (s.setBlink v).frames = s.frames := rfl
@[simp] theorem State.setBlink_resetReq (v : Bool) : (s.setBlink v).resetReq = s.resetReq := rfl
@[simp] theorem State.setBlink_bus (v : Bool) : (s.setBlink v).bus = s.bus := rfl
@[simp] theorem State.setBlink_timer (v : Bool) : (s.setBlink v).timer = s.timer := rfl
@[simp] theorem State.setBlink_trace (v : Bool) : (s.setBlink v).trace = s.trace := rfl
@[simp] theorem State.setBlink_replies (v : Bool) : (s.setBlink v).replies = s.replies := rfl

@[simp] theorem State.setPhase_numLines (p : Phase) : (s.setPhase p).numLines = s.numLines := rfl
@[simp] theorem State.setPhase_numColumns (p : Phase) : (s.setPhase p).numColumns = s.numColumns := rfl
@[simp] theorem State.setPhase_i2cAddr (p : Phase) : (s.setPhase p).i2cAddr = s.i2cAddr := rfl
@[simp] theorem State.setPhase_cur (p : Phase) : (s.setPhase p).cur = s.cur := rfl
@[simp] theorem State.setPhase_saved (p : Phase) : (s.setPhase p).saved = s.saved := rfl
@[simp] theorem State.setPhase_backlight (p : Phase) : (s.setPhase p).backlight = s.backlight := rfl
@[simp] theorem State.setPhase_display (p : Phase) : (s.setPhase p).display = s.display := rfl
@[simp] theorem State.setPhase_cursor (p : Phase) : (s.setPhase p).cursor = s.cursor := rfl
@[simp] theorem State.setPhase_blink (p : Phase) : (s.setPhase p).blink = s.blink := rfl
@[simp] theorem State.setPhase_phase (p : Phase) : (s.setPhase p).phase = p := rfl
@[simp] theorem State.setPhase_status (p : Phase) : (s.setPhase p).status = s.status := rfl
@[simp] theorem State.setPhase_faultSeen (p : Phase) : (s.setPhase p).faultSeen = s.faultSeen := rfl
@[simp] theorem State.setPhase_refused (p : Phase) : (s.setPhase p).refused = s.refused := rfl
@[simp] theorem State.setPhase_seq (p : Phase) : (s.setPhase p).seq = s.seq := rfl
@[simp] theorem State.setPhase_frames (p : Phase) : (s.setPhase p).frames = s.frames := rfl
@[simp] theorem State.setPhase_resetReq (p : Phase) : (s.setPhase p).resetReq = s.resetReq := rfl
@[simp] theorem State.setPhase_bus (p : Phase) : (s.setPhase p).bus = s.bus := rfl
@[simp] theorem State.setPhase_timer (p : Phase) : (s.setPhase p).timer = s.timer := rfl
@[simp] theorem State.setPhase_trace (p : Phase) : (s.setPhase p).trace = s.trace := rfl
@[simp] theorem State.setPhase_replies (p : Phase) : (s.setPhase p).replies = s.replies := rfl

@[simp] theorem State.setSeq_numLines (q : List Stmt) : (s.setSeq q).numLines = s.numLines := rfl
@[simp] theorem State.setSeq_numColumns (q : List Stmt) : (s.setSeq q).numColumns = s.numColumns := rfl
@[simp] theorem State.setSeq_i2cAddr (q : List Stmt) : (s.setSeq q).i2cAddr = s.i2cAddr := rfl
@[simp] theorem State.setSeq_cur (q : List Stmt) : (s.setSeq q).cur = s.cur := rfl
@[simp] theorem State.setSeq_saved (q : List Stmt) : (s.setSeq q).saved = s.saved := rfl
@[simp] theorem State.setSeq_backlight (q : List Stmt) : (s.setSeq q).backlight = s.backlight := rfl
@[simp] theorem State.setSeq_display (q : List Stmt) : (s.setSeq q).display = s.display := rfl
@[simp] theorem State.setSeq_cursor (q : List Stmt) : (s.setSeq q).cursor = s.cursor := rfl
@[simp] theorem State.setSeq_blink (q : List Stmt) : (s.setSeq q).blink = s.blink := rfl
@[simp] theorem State.setSeq_phase (q : List Stmt) : (s.setSeq q).phase = s.phase := rfl
@[simp] theorem State.setSeq_status (q : List Stmt) : (s.setSeq q).status = s.status := rfl
@[simp] theorem State.setSeq_faultSeen (q : List Stmt) : (s.setSeq q).faultSeen = s.faultSeen := rfl
@[simp] theorem State.setSeq_refused (q : List Stmt) : (s.setSeq q).refused = s.refused := rfl
@[simp] theorem State.setSeq_seq (q : List Stmt) : (s.setSeq q).seq = q := rfl
@[simp] theorem State.setSeq_frames (q : List Stmt) : (s.setSeq q).frames = s.frames := rfl
@[simp] theorem State.setSeq_resetReq (q : List Stmt) : (s.setSeq q).resetReq = s.resetReq := rfl
@[simp] theorem State.setSeq_bus (q : List Stmt) : (s.setSeq q).bus = s.bus := rfl
@[simp] theorem State.setSeq_timer (q : List Stmt) : (s.setSeq q).timer = s.timer := rfl
@[simp] theorem State.setSeq_trace (q : List Stmt) : (s.setSeq q).trace = s.trace := rfl
@[simp] theorem State.setSeq_replies (q : List Stmt) : (s.setSeq q).replies = s.replies := rfl

@[simp] theorem State.setFrames_numLines (fs : List Frame) : (s.setFrames fs).numLines = s.numLines := rfl
@[simp] theorem State.setFrames_numColumns (fs : List Frame) : (s.setFrames fs).numColumns = s.numColumns := rfl
@[simp] theorem State.setFrames_i2cAddr (fs : List Frame) : (s.setFrames fs).i2cAddr = s.i2cAddr := rfl
@[simp] theorem State.setFrames_cur (fs : List Frame) : (s.setFrames fs).cur = s.cur := rfl
@[simp] theorem State.setFrames_saved (fs : List Frame) : (s.setFrames fs).saved = s.saved := rfl
@[simp] theorem State.setFrames_backlight (fs : List Frame) : (s.setFrames fs).backlight = s.backlight := rfl
@[simp] theorem State.setFrames_display (fs : List Frame) : (s.setFrames fs).display = s.display := rfl
@[simp] theorem State.setFrames_cursor (fs : List Frame) : (s.setFrames fs).cursor = s.cursor := rfl
@[simp] theorem State.setFrames_blink (fs : List Frame) : (s.setFrames fs).blink = s.blink := rfl
@[simp] theorem State.setFrames_phase (fs : List Frame) : (s.setFrames fs).phase = s.phase := rfl
@[simp] theorem State.setFrames_status (fs : List Frame) : (s.setFrames fs).status = s.status := rfl
@[simp] theorem State.setFrames_faultSeen (fs : List Frame) : (s.setFrames fs).faultSeen = s.faultSeen := rfl
@[simp] theorem State.setFrames_refused (fs : List Frame) : (s.setFrames fs).refused = s.refused := rfl
@[simp] theorem State.setFrames_seq (fs : List Frame) : (s.setFrames fs).seq = s.seq := rfl
@[simp] theorem State.setFrames_frames (fs : List Frame) : (s.setFrames fs).frames = fs := rfl
@[simp] theorem State.setFrames_resetReq (fs : List Frame) : (s.setFrames fs).resetReq = s.resetReq := rfl
@[simp] theorem State.setFrames_bus (fs : List Frame) : (s.setFrames fs).bus = s.bus := rfl
@[simp] theorem State.setFrames_timer (fs : List Frame) : (s.setFrames fs).timer = s.timer := rfl
@[simp] theorem State.setFrames_trace (fs : List Frame) : (s.setFrames fs).trace = s.trace := rfl
@[simp] theorem State.setFrames_replies (fs : List Frame) : (s.setFrames fs).replies = s.replies := rfl

@[simp] theorem State.setStatus_numLines (st : Status) : (s.setStatus st).numLines = s.numLines := rfl
@[simp] theorem State.setStatus_numColumns (st : Status) : (s.setStatus st).numColumns = s.numColumns := rfl
@[simp] theorem State.setStatus_i2cAddr (st : Status) : (s.setStatus st).i2cAddr = s.i2cAddr := rfl
@[simp] theorem State.setStatus_cur (st : Status) : (s.setStatus st).cur = s.cur := rfl
@[simp] theorem State.setStatus_saved (st : Status) : (s.setStatus st).saved = s.saved := rfl
@[simp] theorem State.setStatus_backlight (st : Status) : (s.setStatus st).backlight = s.backlight := rfl
@[simp] theorem State.setStatus_display (st : Status) : (s.setStatus st).display = s.display := rfl
@[simp] theorem State.setStatus_cursor (st : Status) : (s.setStatus st).cursor = s.cursor := rfl
@[simp] theorem State.setStatus_blink (st : Status) : (s.setStatus st).blink = s.blink := rfl
@[simp] theorem State.setStatus_phase (st : Status) : (s.setStatus st).phase = s.phase := rfl
@[simp] theorem State.setStatus_status (st : Status) : (s.setStatus st).status = st := rfl
@[simp] theorem State.setStatus_faultSeen (st : Status) : (s.setStatus st).faultSeen = s.faultSeen := rfl
@[simp] theorem State.setStatus_refused (st : Status) : (s.setStatus st).refused = s.refused := rfl
@[simp] theorem State.setStatus_seq (st : Status) : (s.setStatus st).seq = s.seq := rfl
@[simp] theorem State.setStatus_frames (st : Status) : (s.setStatus st).frames = s.frames := rfl
@[simp] theorem State.setStatus_resetReq (st : Status) : (s.setStatus st).resetReq = s.resetReq := rfl
@[simp] theorem State.setStatus_bus (st : Status) : (s.setStatus st).bus = s.bus := rfl
@[simp] theorem State.setStatus_timer (st : Status) : (s.setStatus st).timer = s.timer := rfl
@[simp] theorem State.setStatus_trace (st : Status) : (s.setStatus st).trace = s.trace := rfl
@[simp] theorem State.setStatus_replies (st : Status) : (s.setStatus st).replies = s.replies := rfl

@[simp] theorem State.reply_numLines (r : Reply) : (s.reply r).numLines = s.numLines := rfl
@[simp] theorem State.reply_numColumns (r : Reply) : (s.reply r).numColumns = s.numColumns := rfl
@[simp] theorem State.reply_i2cAddr (r : Reply) : (s.reply r).i2cAddr = s.i2cAddr := rfl
@[simp] theorem State.reply_cur (r : Reply) : (s.reply r).cur = s.cur := rfl
@[simp] theorem State.reply_saved (r : Reply) : (s.reply r).saved = s.saved := rfl
@[simp] theorem State.reply_backlight (r : Reply) : (s.reply r).backlight = s.backlight := rfl
@[simp] theorem State.reply_display (r : Reply) : (s.reply r).display = s.display := rfl
@[simp] theorem State.reply_cursor (r : Reply) : (s.reply r).cursor = s.cursor := rfl
@[simp] theorem State.reply_blink (r : Reply) : (s.reply r).blink = s.blink := rfl
@[simp] theorem State.reply_phase (r : Reply) : (s.reply r).phase = s.phase := rfl
@[simp] theorem State.reply_status (r : Reply) : (s.reply r).status = s.status := rfl
@[simp] theorem State.reply_faultSeen (r : Reply) : (s.reply r).faultSeen = s.faultSeen := rfl
@[simp] theorem State.reply_refused (r : Reply) : (s.reply r).refused = s.refused := rfl
@[simp] theorem State.reply_seq (r : Reply) : (s.reply r).seq = s.seq := rfl
@[simp] theorem State.reply_frames (r : Reply) : (s.reply r).frames = s.frames := rfl
@[simp] theorem State.reply_resetReq (r : Reply) : (s.reply r).resetReq = s.resetReq := rfl
@[simp] theorem State.reply_bus (r : Reply) : (s.reply r).bus = s.bus := rfl
@[simp] theorem State.reply_timer (r : Reply) : (s.reply r).timer = s.timer := rfl
@[simp] theorem State.reply_trace (r : Reply) : (s.reply r).trace = s.trace := rfl
@[simp] theorem State.reply_replies (r : Reply) : (s.reply r).replies = s.replies ++ [r] := rfl

@[simp] theorem State.recordWrite_numLines (b : Byte) : (s.recordWrite b).numLines = s.numLines := rfl
@[simp] theorem State.recordWrite_numColumns (b : Byte) : (s.recordWrite b).numColumns = s.numColumns := rfl
@[simp] theorem State.recordWrite_i2cAddr (b : Byte) : (s.recordWrite b).i2cAddr = s.i2cAddr := rfl
@[simp] theorem State.recordWrite_cur (b : Byte) : (s.recordWrite b).cur = s.cur := rfl
@[simp] theorem State.recordWrite_saved (b : Byte) : (s.recordWrite b).saved = s.saved := rfl
@[simp] theorem State.recordWrite_backlight (b : Byte) : (s.recordWrite b).backlight = s.backlight := rfl
@[simp] theorem State.recordWrite_display (b : Byte) : (s.recordWrite b).display = s.display := rfl
@[simp] theorem State.recordWrite_cursor (b : Byte) : (s.recordWrite b).cursor = s.cursor := rfl
@[simp] theorem State.recordWrite_blink (b : Byte) : (s.recordWrite b).blink = s.blink := rfl
@[simp] theorem State.recordWrite_phase (b : Byte) : (s.recordWrite b).phase = s.phase := rfl
@[simp] theorem State.recordWrite_status (b : Byte) : (s.recordWrite b).status = s.status := rfl
@[simp] theorem State.recordWrite_faultSeen (b : Byte) : (s.recordWrite b).faultSeen = s.faultSeen := rfl
@[simp] theorem State.recordWrite_refused (b : Byte) : (s.recordWrite b).refused = s.refused := rfl
@[simp] theorem State.recordWrite_seq (b : Byte) : (s.recordWrite b).seq = s.seq := rfl
@[simp] theorem State.recordWrite_frames (b : Byte) : (s.recordWrite b).frames = s.frames := rfl
@[simp] theorem State.recordWrite_resetReq (b : Byte) : (s.recordWrite b).resetReq = s.resetReq := rfl
@[simp] theorem State.recordWrite_bus (b : Byte) : (s.recordWrite b).bus = s.bus.advance 1 := rfl
@[simp] theorem State.recordWrite_timer (b : Byte) : (s.recordWrite b).timer = s.timer := rfl
@[simp] theorem State.recordWrite_trace (b : Byte) : (s.recordWrite b).trace = s.trace ++ [.write s.i2cAddr b] := rfl
@[simp] theorem State.recordWrite_replies (b : Byte) : (s.recordWrite b).replies = s.replies := rfl

@[simp] theorem State.recordDelay_numLines (ms : Nat) : (s.recordDelay ms).numLines = s.numLines := rfl
@[simp] theorem State.recordDelay_numColumns (ms : Nat) : (s.recordDelay ms).numColumns = s.numColumns := rfl
@[simp] theorem State.recordDelay_i2cAddr (ms : Nat) : (s.recordDelay ms).i2cAddr = s.i2cAddr := rfl
@[simp] theorem State.recordDelay_cur (ms : Nat) : (s.recordDelay ms).cur = s.cur := rfl
@[simp] theorem State.recordDelay_saved (ms : Nat) : (s.recordDelay ms).saved = s.saved := rfl
@[simp] theorem State.recordDelay_backlight (ms : Nat) : (s.recordDelay ms).backlight = s.backlight := rfl
@[simp] theorem State.recordDelay_display (ms : Nat) : (s.recordDelay ms).display = s.display := rfl
@[simp] theorem State.recordDelay_cursor (ms : Nat) : (s.recordDelay ms).cursor = s.cursor := rfl
@[simp] theorem State.recordDelay_blink (ms : Nat) : (s.recordDelay ms).blink = s.blink := rfl
@[simp] theorem State.recordDelay_phase (ms : Nat) : (s.recordDelay ms).phase = s.phase := rfl
@[simp] theorem State.recordDelay_status (ms : Nat) : (s.recordDelay ms).status = s.status := rfl
@[simp] theorem State.recordDelay_faultSeen (ms : Nat) : (s.recordDelay ms).faultSeen = s.faultSeen := rfl
@[simp] theorem State.recordDelay_refused (ms : Nat) : (s.recordDelay ms).refused = s.refused := rfl
@[simp] theorem State.recordDelay_seq (ms : Nat) : (s.recordDelay ms).seq = s.seq := rfl
@[simp] theorem State.recordDelay_frames (ms : Nat) : (s.recordDelay ms).frames = s.frames := rfl
@[simp] theorem State.recordDelay_resetReq (ms : Nat) : (s.recordDelay ms).resetReq = s.resetReq := rfl
@[simp] theorem State.recordDelay_bus (ms : Nat) : (s.recordDelay ms).bus = s.bus := rfl
@[simp] theorem State.recordDelay_timer (ms : Nat) : (s.recordDelay ms).timer = s.timer.advance 1 := rfl
@[simp] theorem State.recordDelay_trace (ms : Nat) : (s.recordDelay ms).trace = s.trace ++ [.delay ms] := rfl
@[simp] theorem State.recordDelay_replies (ms : Nat) : (s.recordDelay ms).replies = s.replies := rfl

@[simp] theorem takeFault_numLines (e : BusFault) : (takeFault e s).numLines = s.numLines := rfl
@[simp] theorem takeFault_numColumns (e : BusFault) : (takeFault e s).numColumns = s.numColumns := rfl
@[simp] theorem takeFault_i2cAddr (e : BusFault) : (takeFault e s).i2cAddr = s.i2cAddr := rfl
@[simp] theorem takeFault_cur (e : BusFault) : (takeFault e s).cur = s.cur := rfl
@[simp] theorem takeFault_saved (e : BusFault) : (takeFault e s).saved = s.saved := rfl
@[simp] theorem takeFault_backlight (e : BusFault) : (takeFault e s).backlight = s.backlight := rfl
@[simp] theorem takeFault_display (e : BusFault) : (takeFault e s).display = s.display := rfl
@[simp] theorem takeFault_cursor (e : BusFault) : (takeFault e s).cursor = s.cursor := rfl
@[simp] theorem takeFault_blink (e : BusFault) : (takeFault e s).blink = s.blink := rfl
@[simp] theorem takeFault_phase (e : BusFault) : (takeFault e s).phase = s.phase.afterFault := rfl
@[simp] theorem takeFault_status (e : BusFault) : (takeFault e s).status = .fault e := rfl
@[simp] theorem takeFault_faultSeen (e : BusFault) : (takeFault e s).faultSeen = true := rfl
@[simp] theorem takeFault_refused (e : BusFault) : (takeFault e s).refused = s.refused := rfl
@[simp] theorem takeFault_seq (e : BusFault) : (takeFault e s).seq = [] := rfl
@[simp] theorem takeFault_frames (e : BusFault) : (takeFault e s).frames = s.frames := rfl
@[simp] theorem takeFault_resetReq (e : BusFault) : (takeFault e s).resetReq = s.resetReq := rfl
@[simp] theorem takeFault_bus (e : BusFault) : (takeFault e s).bus = s.bus := rfl
@[simp] theorem takeFault_timer (e : BusFault) : (takeFault e s).timer = s.timer := rfl
@[simp] theorem takeFault_trace (e : BusFault) : (takeFault e s).trace = s.trace := rfl
@[simp] theorem takeFault_replies (e : BusFault) : (takeFault e s).replies = s.replies := rfl

@[simp] theorem abandon_numLines (p : Params) : (abandon p s).numLines = s.numLines := rfl
@[simp] theorem abandon_numColumns (p : Params) : (abandon p s).numColumns = s.numColumns := rfl
@[simp] theorem abandon_i2cAddr (p : Params) : (abandon p s).i2cAddr = s.i2cAddr := rfl
@[simp] theorem abandon_cur (p : Params) : (abandon p s).cur = s.cur := rfl
@[simp] theorem abandon_saved (p : Params) : (abandon p s).saved = s.saved := rfl
@[simp] theorem abandon_backlight (p : Params) : (abandon p s).backlight = s.backlight := rfl
@[simp] theorem abandon_display (p : Params) : (abandon p s).display = s.display := rfl
@[simp] theorem abandon_cursor (p : Params) : (abandon p s).cursor = s.cursor := rfl
@[simp] theorem abandon_blink (p : Params) : (abandon p s).blink = s.blink := rfl
@[simp] theorem abandon_phase (p : Params) : (abandon p s).phase = s.phase := rfl
@[simp] theorem abandon_status (p : Params) : (abandon p s).status = s.status := rfl
@[simp] theorem abandon_faultSeen (p : Params) : (abandon p s).faultSeen = s.faultSeen := rfl
@[simp] theorem abandon_refused (p : Params) : (abandon p s).refused = s.refused := rfl
@[simp] theorem abandon_seq (p : Params) : (abandon p s).seq = s.seq := rfl
@[simp] theorem abandon_frames (p : Params) : (abandon p s).frames = s.frames := rfl
@[simp] theorem abandon_resetReq (p : Params) : (abandon p s).resetReq = some p := rfl
@[simp] theorem abandon_bus (p : Params) : (abandon p s).bus = s.bus := rfl
@[simp] theorem abandon_timer (p : Params) : (abandon p s).timer = s.timer := rfl
@[simp] theorem abandon_trace (p : Params) : (abandon p s).trace = s.trace := rfl
@[simp] theorem abandon_replies (p : Params) : (abandon p s).replies = s.replies := rfl

@[simp] theorem State.refuse_numLines (r : Reason) : (s.refuse r).numLines = s.numLines := rfl
@[simp] theorem State.refuse_numColumns (r : Reason) : (s.refuse r).numColumns = s.numColumns := rfl
@[simp] theorem State.refuse_i2cAddr (r : Reason) : (s.refuse r).i2cAddr = s.i2cAddr := rfl
@[simp] theorem State.refuse_cur (r : Reason) : (s.refuse r).cur = s.cur := rfl
@[simp] theorem State.refuse_saved (r : Reason) : (s.refuse r).saved = s.saved := rfl
@[simp] theorem State.refuse_backlight (r : Reason) : (s.refuse r).backlight = s.backlight := rfl
@[simp] theorem State.refuse_display (r : Reason) : (s.refuse r).display = s.display := rfl
@[simp] theorem State.refuse_cursor (r : Reason) : (s.refuse r).cursor = s.cursor := rfl
@[simp] theorem State.refuse_blink (r : Reason) : (s.refuse r).blink = s.blink := rfl
@[simp] theorem State.refuse_phase (r : Reason) : (s.refuse r).phase = s.phase := rfl
@[simp] theorem State.refuse_status (r : Reason) : (s.refuse r).status = s.status := rfl
@[simp] theorem State.refuse_faultSeen (r : Reason) : (s.refuse r).faultSeen = s.faultSeen := rfl
@[simp] theorem State.refuse_refused (r : Reason) : (s.refuse r).refused = true := rfl
@[simp] theorem State.refuse_seq (r : Reason) : (s.refuse r).seq = s.seq := rfl
@[simp] theorem State.refuse_frames (r : Reason) : (s.refuse r).frames = s.frames := rfl
@[simp] theorem State.refuse_resetReq (r : Reason) : (s.refuse r).resetReq = s.resetReq := rfl
@[simp] theorem State.refuse_bus (r : Reason) : (s.refuse r).bus = s.bus := rfl
@[simp] theorem State.refuse_timer (r : Reason) : (s.refuse r).timer = s.timer := rfl
@[simp] theorem State.refuse_trace (r : Reason) : (s.refuse r).trace = s.trace := rfl
@[simp] theorem State.refuse_replies (r : Reason) : (s.refuse r).replies = s.replies ++ [.refused r] := rfl

@[simp] theorem release_numLines : (release s).numLines = s.numLines := rfl
@[simp] theorem release_numColumns : (release s).numColumns = s.numColumns := rfl
@[simp] theorem release_i2cAddr : (release s).i2cAddr = s.i2cAddr := rfl
@[simp] theorem release_cur : (release s).cur = s.cur := rfl
@[simp] theorem release_saved : (release s).saved = s.saved := rfl
@[simp] theorem release_backlight : (release s).backlight = s.backlight := rfl
@[simp] theorem release_display : (release s).display = s.display := rfl
@[simp] theorem release_cursor : (release s).cursor = s.cursor := rfl
@[simp] theorem release_blink : (release s).blink = s.blink := rfl
@[simp] theorem release_phase : (release s).phase = .powerUp := rfl
@[simp] theorem release_status : (release s).status = s.status := rfl
@[simp] theorem release_faultSeen : (release s).faultSeen = s.faultSeen := rfl
@[simp] theorem release_refused : (release s).refused = s.refused := rfl
@[simp] theorem release_seq : (release s).seq = s.seq := rfl
@[simp] theorem release_frames : (release s).frames = s.frames := rfl
@[simp] theorem release_resetReq : (release s).resetReq = s.resetReq := rfl
@[simp] theorem release_bus : (release s).bus = s.bus := rfl
@[simp] theorem release_timer : (release s).timer = s.timer := rfl
@[simp] theorem release_trace : (release s).trace = s.trace := rfl
@[simp] theorem release_replies : (release s).replies = s.replies := rfl

@[simp] theorem load_numLines (p : Params) : (load p s).numLines = clampLines p := rfl
@[simp] theorem load_numColumns (p : Params) : (load p s).numColumns = clampColumns p := rfl
@[simp] theorem load_i2cAddr (p : Params) : (load p s).i2cAddr = p.i2cAddr := rfl
@[simp] theorem load_cur (p : Params) : (load p s).cur = ⟨0, 0⟩ := rfl
@[simp] theorem load_saved (p : Params) : (load p s).saved = ⟨0, 0⟩ := rfl
@[simp] theorem load_backlight (p : Params) : (load p s).backlight = p.backlight := rfl
@[simp] theorem load_display (p : Params) : (load p s).display = false := rfl
@[simp] theorem load_cursor (p : Params) : (load p s).cursor = p.cursor := rfl
@[simp] theorem load_blink (p : Params) : (load p s).blink = p.blink := rfl
@[simp] theorem load_phase (p : Params) : (load p s).phase = .uninit := rfl
@[simp] theorem load_status (p : Params) : (load p s).status = .ok := rfl
@[simp] theorem load_faultSeen (p : Params) : (load p s).faultSeen = false := rfl
@[simp] theorem load_refused (p : Params) : (load p s).refused = false := rfl
@[simp] theorem load_seq (p : Params) : (load p s).seq = [] := rfl
@[simp] theorem load_frames (p : Params) : (load p s).frames = s.frames := rfl
@[simp] theorem load_resetReq (p : Params) : (load p s).resetReq = none := rfl
@[simp] theorem load_bus (p : Params) : (load p s).bus = s.bus := rfl
@[simp] theorem load_timer (p : Params) : (load p s).timer = s.timer := rfl
@[simp] theorem load_trace (p : Params) : (load p s).trace = s.trace := rfl
@[simp] theorem load_replies (p : Params) : (load p s).replies = s.replies := rfl

@[simp] theorem State.emitted_numLines (outs : List Out) : (s.emitted outs).numLines = s.numLines := rfl
@[simp] theorem State.emitted_numColumns (outs : List Out) : (s.emitted outs).numColumns = s.numColumns := rfl
@[simp] theorem State.emitted_i2cAddr (outs : List Out) : (s.emitted outs).i2cAddr = s.i2cAddr := rfl
@[simp] theorem State.emitted_cur (outs : List Out) : (s.emitted outs).cur = s.cur := rfl
@[simp] theorem State.emitted_saved (outs : List Out) : (s.emitted outs).saved = s.saved := rfl
@[simp] theorem State.emitted_backlight (outs : List Out) : (s.emitted outs).backlight = s.backlight := rfl
@[simp] theorem State.emitted_display (outs : List Out) : (s.emitted outs).display = s.display := rfl
@[simp] theorem State.emitted_cursor (outs : List Out) : (s.emitted outs).cursor = s.cursor := rfl
@[simp] theorem State.emitted_blink (outs : List Out) : (s.emitted outs).blink = s.blink := rfl
@[simp] theorem State.emitted_phase (outs : List Out) : (s.emitted outs).phase = s.phase := rfl
@[simp] theorem State.emitted_status (outs : List Out) : (s.emitted outs).status = s.status := rfl
@[simp] theorem State.emitted_faultSeen (outs : List Out) : (s.emitted outs).faultSeen = s.faultSeen := rfl
@[simp] theorem State.emitted_refused (outs : List Out) : (s.emitted outs).refused = s.refused := rfl
@[simp] theorem State.emitted_seq (outs : List Out) : (s.emitted outs).seq = s.seq := rfl
@[simp] theorem State.emitted_frames (outs : List Out) : (s.emitted outs).frames = s.frames := rfl
@[simp] theorem State.emitted_resetReq (outs : List Out) : (s.emitted outs).resetReq = s.resetReq := rfl
@[simp] theorem State.emitted_bus (outs : List Out) : (s.emitted outs).bus = s.bus.advance (writesIn outs) := rfl
@[simp] theorem State.emitted_timer (outs : List Out) : (s.emitted outs).timer = s.timer.advance (delaysIn outs) := rfl
@[simp] theorem State.emitted_trace (outs : List Out) : (s.emitted outs).trace = s.trace ++ outs.map (Out.event s.i2cAddr) := rfl
@[simp] theorem State.emitted_replies (outs : List Out) : (s.emitted outs).replies = s.replies := rfl

end Sys2Proof.Machine
end

