-- ==== Sys2Proof/Laws/Ops.lean ====
section
/-! SUPPORT. What the shared operations can do, said once: ports, sequencing, a list of outputs, and the ends of a run. -/

namespace Sys2Proof.Machine

/-! Ports. -/

@[simp] theorem BusPort.advance_zero (p : BusPort) : p.advance 0 = p := rfl
@[simp] theorem DelayPort.advance_zero (p : DelayPort) : p.advance 0 = p := rfl

@[simp] theorem BusPort.advance_advance (p : BusPort) (m n : Nat) : (p.advance m).advance n = p.advance (m + n) := by
  simp [BusPort.advance, List.drop_drop, Nat.add_assoc]

@[simp] theorem DelayPort.advance_advance (p : DelayPort) (m n : Nat) : (p.advance m).advance n = p.advance (m + n) := by
  simp [DelayPort.advance, List.drop_drop, Nat.add_assoc]

@[simp] theorem BusPort.peek_advance (p : BusPort) (n i : Nat) : (p.advance n).peek i = p.peek (n + i) := by
  simp [BusPort.advance, BusPort.peek, Nat.add_assoc]

@[simp] theorem DelayPort.peek_advance (p : DelayPort) (n i : Nat) : (p.advance n).peek i = p.peek (n + i) := by
  simp [DelayPort.advance, DelayPort.peek, Nat.add_assoc]

/-! Sequencing. -/

@[simp] theorem Run.done_andThen (s : State) (k : State → Run) : (Run.done s).andThen k = k s := rfl
@[simp] theorem Run.raised_andThen (e : BusFault) (s : State) (k : State → Run) : (Run.raised e s).andThen k = .raised e s := rfl
@[simp] theorem Run.cut_andThen (p : Params) (s : State) (k : State → Run) : (Run.cut p s).andThen k = .cut p s := rfl
@[simp] theorem Run.andThen_done (r : Run) : r.andThen .done = r := by cases r <;> rfl

theorem Run.andThen_assoc (r : Run) (k l : State → Run) : (r.andThen k).andThen l = r.andThen fun s => (k s).andThen l := by
  cases r <;> rfl

/-- The second statement only matters where the first ends. -/
theorem Run.andThen_congr {r : Run} {k l : State → Run} (h : ∀ t, r = .done t → k t = l t) : r.andThen k = r.andThen l := by
  cases r with
  | done s => exact h s rfl
  | raised e s => rfl
  | cut p s => rfl

@[simp] theorem doAll_nil (s : State) : doAll [] s = .done s := rfl
@[simp] theorem doAll_cons (a : State → Run) (rest : List (State → Run)) (s : State) :
    doAll (a :: rest) s = (a s).andThen (doAll rest) := rfl

@[simp] theorem Run.andThen_doAll_nil (r : Run) : r.andThen (doAll []) = r := by cases r <;> rfl

theorem doAll_append (as bs : List (State → Run)) (s : State) : doAll (as ++ bs) s = (doAll as s).andThen (doAll bs) := by
  induction as generalizing s with
  | nil => rfl
  | cons a rest ih =>
    simp only [List.cons_append, doAll_cons, Run.andThen_assoc]
    exact Run.andThen_congr fun t _ => ih t

@[simp] theorem change_apply (f : State → State) (s : State) : change f s = .done (f s) := rfl

/-- A bus write that is taken leaves its event and nothing else. -/
theorem busWrite_done {b : Byte} {s t : State} (h : busWrite b s = .done t) : t = s.recordWrite b := by
  unfold busWrite at h
  split at h <;> cases h
  rfl

/-! Outputs. -/

@[simp] theorem writesIn_append (as bs : List Out) : writesIn (as ++ bs) = writesIn as + writesIn bs := by
  induction as with
  | nil => simp [writesIn]
  | cons a rest ih =>
    cases a with
    | w b => simp only [List.cons_append, writesIn, ih]; omega
    | d ms => simp only [List.cons_append, writesIn, ih]

@[simp] theorem delaysIn_append (as bs : List Out) : delaysIn (as ++ bs) = delaysIn as + delaysIn bs := by
  induction as with
  | nil => simp [delaysIn]
  | cons a rest ih =>
    cases a with
    | w b => simp only [List.cons_append, delaysIn, ih]
    | d ms => simp only [List.cons_append, delaysIn, ih]; omega

@[simp] theorem emitted_nil (s : State) : s.emitted [] = s := by
  simp [State.emitted, writesIn, delaysIn]

@[simp] theorem emitted_emitted (s : State) (as bs : List Out) : (s.emitted as).emitted bs = s.emitted (as ++ bs) := by
  simp [State.emitted]

/-- The outputs of a list, one after the other. -/
def emit : List Out → State → Run
  | [], s => .done s
  | .w b :: rest, s => (busWrite b s).andThen (emit rest)
  | .d ms :: rest, s => (delay ms s).andThen (emit rest)

theorem emit_append (as bs : List Out) (s : State) : emit (as ++ bs) s = (emit as s).andThen (emit bs) := by
  induction as generalizing s with
  | nil => rfl
  | cons a rest ih =>
    cases a <;> simp only [List.cons_append, emit, Run.andThen_assoc] <;> exact Run.andThen_congr fun t _ => ih t

theorem recordWrite_eq_emitted (s : State) (b : Byte) : s.recordWrite b = s.emitted [.w b] := by
  simp [State.recordWrite, State.emitted, writesIn, delaysIn, Out.event]

theorem recordDelay_eq_emitted (s : State) (ms : Nat) : s.recordDelay ms = s.emitted [.d ms] := by
  simp [State.recordDelay, State.emitted, writesIn, delaysIn, Out.event]

/-- Everything a list of outputs can do: reach its end after all of it, fail at one of its writes, or be cut off after one of its
outputs. -/
theorem emit_cases (outs : List Out) (s : State) :
    (emit outs s = .done (s.emitted outs) ∧ s.calm (writesIn outs) (delaysIn outs)) ∨
    (∃ k e, k < writesIn outs ∧ s.failsAt k e (delaysIn (upToWrite k outs)) ∧
      emit outs s = .raised e (s.emitted (upToWrite k outs))) ∨
    (∃ pre p, pre <+: outs ∧ pre ≠ [] ∧ emit outs s = .cut p (s.emitted pre)) := by
  induction outs generalizing s with
  | nil => exact .inl ⟨by simp [emit], by simp [State.calm, writesIn, delaysIn]⟩
  | cons o rest ih =>
    cases o with
    | w b =>
      cases ha : s.bus.peek 0 with
      | ok =>
        have he : emit (.w b :: rest) s = emit rest (s.emitted [.w b]) := by
          simp [emit, busWrite, ha, recordWrite_eq_emitted]
        rcases ih (s.emitted [.w b]) with ⟨h, hw, hd⟩ | ⟨k, e, hk, ⟨⟨hw, hd⟩, hf⟩, h⟩ | ⟨pre, p, hp, hn, h⟩
        · refine .inl ⟨by rw [he, h]; simp, ?_, ?_⟩
          · rintro (_ | i) hi
            · exact ha
            · simpa [writesIn, delaysIn, Nat.add_comm] using hw i (by simpa [writesIn] using hi)
          · intro i hi
            simpa [writesIn, delaysIn] using hd i (by simpa [delaysIn] using hi)
        · refine .inr (.inl ⟨k + 1, e, by simpa [writesIn] using hk, ⟨⟨?_, ?_⟩, ?_⟩, ?_⟩)
          · rintro (_ | i) hi
            · exact ha
            · simpa [writesIn, delaysIn, Nat.add_comm] using hw i (by omega)
          · intro i hi
            simpa [writesIn, delaysIn] using hd i (by simpa [upToWrite, delaysIn] using hi)
          · simpa [writesIn, delaysIn, Nat.add_comm] using hf
          · rw [he, h]
            simp [upToWrite]
        · exact .inr (.inr ⟨.w b :: pre, p, by simpa using hp, by simp, by rw [he, h]; simp⟩)
      | fault e =>
        refine .inr (.inl ⟨0, e, by simp [writesIn], ⟨⟨by simp, by simp [upToWrite, delaysIn]⟩, ha⟩, ?_⟩)
        simp [emit, busWrite, ha, recordWrite_eq_emitted, upToWrite]
      | reset p =>
        exact .inr (.inr ⟨[.w b], p, by simp, by simp, by simp [emit, busWrite, ha, recordWrite_eq_emitted]⟩)
    | d ms =>
      cases ha : s.timer.peek 0 with
      | elapsed =>
        have he : emit (.d ms :: rest) s = emit rest (s.emitted [.d ms]) := by
          simp [emit, delay, ha, recordDelay_eq_emitted]
        rcases ih (s.emitted [.d ms]) with ⟨h, hw, hd⟩ | ⟨k, e, hk, ⟨⟨hw, hd⟩, hf⟩, h⟩ | ⟨pre, p, hp, hn, h⟩
        · refine .inl ⟨by rw [he, h]; simp, ?_, ?_⟩
          · intro i hi
            simpa [writesIn, delaysIn] using hw i (by simpa [writesIn] using hi)
          · rintro (_ | i) hi
            · exact ha
            · simpa [writesIn, delaysIn, Nat.add_comm] using hd i (by simpa [delaysIn] using hi)
        · refine .inr (.inl ⟨k, e, by simpa [writesIn] using hk, ⟨⟨?_, ?_⟩, ?_⟩, ?_⟩)
          · intro i hi
            simpa [writesIn, delaysIn] using hw i hi
          · rintro (_ | i) hi
            · exact ha
            · have hi' : i < delaysIn (upToWrite k rest) := by
                cases k <;> simpa [upToWrite, delaysIn] using hi
              simpa [writesIn, delaysIn, Nat.add_comm] using hd i hi'
          · simpa [writesIn, delaysIn] using hf
          · rw [he, h]
            cases k <;> simp [upToWrite]
        · exact .inr (.inr ⟨.d ms :: pre, p, by simpa using hp, by simp, by rw [he, h]; simp⟩)
      | reset p =>
        exact .inr (.inr ⟨[.d ms], p, by simp, by simp, by simp [emit, delay, ha, recordDelay_eq_emitted]⟩)

/-- Outputs that reach their end leave exactly themselves. -/
theorem emit_done {outs : List Out} {s t : State} (h : emit outs s = .done t) :
    t = s.emitted outs ∧ s.calm (writesIn outs) (delaysIn outs) := by
  rcases emit_cases outs s with ⟨h', hc⟩ | ⟨k, e, _, _, h'⟩ | ⟨pre, p, _, _, h'⟩ <;> rw [h] at h' <;> cases h'
  exact ⟨rfl, hc⟩

/-- Where the environment is calm, outputs reach their end. -/
theorem emit_calm {outs : List Out} {s : State} (h : s.calm (writesIn outs) (delaysIn outs)) :
    emit outs s = .done (s.emitted outs) := by
  induction outs generalizing s with
  | nil => simp [emit]
  | cons o rest ih =>
    obtain ⟨hw, hd⟩ := h
    cases o with
    | w b =>
      have h0 : s.bus.peek 0 = .ok := hw 0 (by simp [writesIn])
      have hr : (s.emitted [.w b]).calm (writesIn rest) (delaysIn rest) := by
        constructor
        · intro i hi
          simpa [writesIn, Nat.add_comm] using hw (i + 1) (by simpa [writesIn] using hi)
        · intro i hi
          simpa [delaysIn] using hd i (by simpa [delaysIn] using hi)
      simp [emit, busWrite, h0, recordWrite_eq_emitted, ih hr]
    | d ms =>
      have h0 : s.timer.peek 0 = .elapsed := hd 0 (by simp [delaysIn])
      have hr : (s.emitted [.d ms]).calm (writesIn rest) (delaysIn rest) := by
        constructor
        · intro i hi
          simpa [writesIn] using hw i (by simpa [writesIn] using hi)
        · intro i hi
          simpa [delaysIn, Nat.add_comm] using hd (i + 1) (by simpa [delaysIn] using hi)
      simp [emit, delay, h0, recordDelay_eq_emitted, ih hr]

/-- Where a write is the first to fail, the outputs end there. -/
theorem emit_fails {outs : List Out} {s : State} {k : Nat} {e : BusFault} (hk : k < writesIn outs)
    (h : s.failsAt k e (delaysIn (upToWrite k outs))) : emit outs s = .raised e (s.emitted (upToWrite k outs)) := by
  induction outs generalizing s k with
  | nil => simp [writesIn] at hk
  | cons o rest ih =>
    obtain ⟨⟨hw, hd⟩, hf⟩ := h
    cases o with
    | w b =>
      cases k with
      | zero => simp [emit, busWrite, hf, recordWrite_eq_emitted, upToWrite]
      | succ k =>
        have h0 : s.bus.peek 0 = .ok := hw 0 (by omega)
        have hr : (s.emitted [.w b]).failsAt k e (delaysIn (upToWrite k rest)) := by
          refine ⟨⟨?_, ?_⟩, ?_⟩
          · intro i hi
            simpa [writesIn, Nat.add_comm] using hw (i + 1) (by omega)
          · intro i hi
            simpa [delaysIn] using hd i (by simpa [upToWrite, delaysIn] using hi)
          · simpa [writesIn, Nat.add_comm] using hf
        simp [emit, busWrite, h0, recordWrite_eq_emitted, upToWrite, ih (by simpa [writesIn] using hk) hr]
    | d ms =>
      have hu : upToWrite k (.d ms :: rest) = .d ms :: upToWrite k rest := by cases k <;> rfl
      have h0 : s.timer.peek 0 = .elapsed := hd 0 (by simp [hu, delaysIn])
      have hr : (s.emitted [.d ms]).failsAt k e (delaysIn (upToWrite k rest)) := by
        refine ⟨⟨?_, ?_⟩, ?_⟩
        · intro i hi
          simpa [writesIn] using hw i hi
        · intro i hi
          simpa [delaysIn, Nat.add_comm] using hd (i + 1) (by simpa [hu, delaysIn] using hi)
        · simpa [writesIn] using hf
      simp [emit, delay, h0, recordDelay_eq_emitted, hu, ih (by simpa [writesIn] using hk) hr]

/-- A calm environment stays calm for what is left of it. -/
theorem calm_emitted {s : State} {w d : Nat} (outs : List Out) (h : s.calm (writesIn outs + w) (delaysIn outs + d)) :
    (s.emitted outs).calm w d := by
  obtain ⟨hw, hd⟩ := h
  refine ⟨fun i hi => ?_, fun i hi => ?_⟩
  · simpa using hw (writesIn outs + i) (by omega)
  · simpa using hd (delaysIn outs + i) (by omega)

/-- A calm environment is calm for less. -/
theorem calm_mono {s : State} {w d w' d' : Nat} (h : s.calm w d) (hw : w' ≤ w) (hd : d' ≤ d) : s.calm w' d' :=
  ⟨fun i hi => h.1 i (by omega), fun i hi => h.2 i (by omega)⟩

/-! The outputs up to a failing write. -/

/-- Where the write lies in the first part, the second part does not matter. -/
theorem upToWrite_append_left {as : List Out} {k : Nat} (bs : List Out) (h : k < writesIn as) :
    upToWrite k (as ++ bs) = upToWrite k as := by
  induction as generalizing k with
  | nil => simp [writesIn] at h
  | cons o rest ih =>
    cases o with
    | w b =>
      cases k with
      | zero => rfl
      | succ k => simp [upToWrite, ih (by simpa [writesIn] using h)]
    | d ms => cases k <;> simp [upToWrite, ih (by simpa [writesIn] using h)]

/-- Where the write lies in the second part, all of the first part has gone out. -/
theorem upToWrite_append_right (as bs : List Out) (k : Nat) : upToWrite (writesIn as + k) (as ++ bs) = as ++ upToWrite k bs := by
  induction as with
  | nil => simp [writesIn]
  | cons o rest ih =>
    cases o with
    | w b => simp [upToWrite, writesIn, Nat.add_right_comm, ih]
    | d ms =>
      have hu : ∀ n l, upToWrite n (.d ms :: l) = .d ms :: upToWrite n l := fun n l => by cases n <;> rfl
      simp [hu, writesIn, ih]

/-- What goes out up to a write is a beginning of all that would go out. -/
theorem upToWrite_prefix (k : Nat) (outs : List Out) : upToWrite k outs <+: outs := by
  induction outs generalizing k with
  | nil => simp [upToWrite]
  | cons o rest ih => cases o <;> cases k <;> simp [upToWrite, ih]

theorem delaysIn_upToWrite_le (k : Nat) (outs : List Out) : delaysIn (upToWrite k outs) ≤ delaysIn outs := by
  obtain ⟨rest, h⟩ := upToWrite_prefix k outs
  rw [← congrArg delaysIn h, delaysIn_append]
  omega

/-- Outputs without a delay have none up to any write. -/
theorem delaysIn_upToWrite {outs : List Out} (h : delaysIn outs = 0) (k : Nat) : delaysIn (upToWrite k outs) = 0 := by
  have := delaysIn_upToWrite_le k outs
  omega

/-- Outputs without a delay are cut by counting. -/
theorem upToWrite_eq_take {outs : List Out} (h : delaysIn outs = 0) (k : Nat) : upToWrite k outs = outs.take (k + 1) := by
  induction outs generalizing k with
  | nil => simp [upToWrite]
  | cons o rest ih =>
    cases o with
    | w b => cases k <;> simp [upToWrite, ih (by simpa [delaysIn] using h)]
    | d ms => simp [delaysIn] at h

/-- An environment in which a write is the first to fail is one in which a later part of it is, once the rest has gone out. -/
theorem failsAt_emitted {s : State} {outs : List Out} {k d : Nat} {e : BusFault}
    (h : s.failsAt (writesIn outs + k) e (delaysIn outs + d)) : (s.emitted outs).failsAt k e d :=
  ⟨calm_emitted outs h.1, by simpa using h.2⟩

/-! The state a run leaves. -/

/-- Whatever happens, a list of outputs leaves the state after some beginning of it. -/
theorem emit_state (outs : List Out) (s : State) : ∃ pre, pre <+: outs ∧ (emit outs s).state = s.emitted pre := by
  rcases emit_cases outs s with ⟨h, -⟩ | ⟨k, e, -, -, h⟩ | ⟨pre, p, hp, -, h⟩
  · exact ⟨outs, List.prefix_rfl, by rw [h]; rfl⟩
  · exact ⟨upToWrite k outs, upToWrite_prefix k outs, by rw [h]; rfl⟩
  · exact ⟨pre, hp, by rw [h]; rfl⟩

/-- A sequence leaves what its first part left, or what its second part left. -/
theorem andThen_state (r : Run) (k : State → Run) :
    (r.andThen k).state = r.state ∨ ∃ t, r = .done t ∧ (r.andThen k).state = (k t).state := by
  cases r with
  | done t => exact .inr ⟨t, rfl, rfl⟩
  | raised e t => exact .inl rfl
  | cut p t => exact .inl rfl

/-! The ends of a run, and the gate. -/

@[simp] theorem finished_done (s : State) : (Run.done s).finished = s := rfl
@[simp] theorem finished_raised (e : BusFault) (s : State) : (Run.raised e s).finished = takeFault e s := rfl
@[simp] theorem finished_cut (p : Params) (s : State) : (Run.cut p s).finished = abandon p s := rfl
@[simp] theorem completed_done (s : State) : (Run.done s).completed = s.succeeded := rfl
@[simp] theorem completed_raised (e : BusFault) (s : State) : (Run.raised e s).completed = s.failed e := rfl
@[simp] theorem completed_cut (p : Params) (s : State) : (Run.cut p s).completed = abandon p s := rfl

/-- In READY an operation in range runs its body. -/
theorem execute_ready {s : State} (h : s.phase = .ready) {inR : State → Bool} (hr : inR s = true) (body : State → Run) :
    execute inR body s = .next (body s).completed := by
  simp [execute, h, Phase.gate, hr, complete]

/-- In READY an operation out of range is refused. -/
theorem execute_outOfRange {s : State} (h : s.phase = .ready) {inR : State → Bool} (hr : inR s = false) (body : State → Run) :
    execute inR body s = .next (s.refuse .outOfRange) := by
  simp [execute, h, Phase.gate, hr]

/-- Everything execute can do. -/
theorem execute_cases (inR : State → Bool) (body : State → Run) (s : State) :
    (s.phase.gate = .hold ∧ execute inR body s = .next s) ∨
    (s.phase = .initFailed ∧ execute inR body s = .next (s.refuse .notReady)) ∨
    (s.phase = .ready ∧ inR s = false ∧ execute inR body s = .next (s.refuse .outOfRange)) ∨
    (s.phase = .ready ∧ inR s = true ∧ execute inR body s = .next (body s).completed) := by
  cases h : s.phase <;> cases hr : inR s <;> simp [execute, h, hr, Phase.gate, complete]

/-- A fault in READY leaves READY. -/
@[simp] theorem afterFault_ready : Phase.afterFault .ready = .ready := rfl

/-! Reset. -/

/-- State.reset is what loading its parameters and releasing reset leaves of it (10_state.md R34, 70_reset_and_hazards.md R150). -/
theorem reset_eq_released : State.reset = State.reset.resetWith Config.params := rfl

end Sys2Proof.Machine
end

