-- ==== Sys2Proof/Laws/Bodies.lean ====
section
/-! SUPPORT. Every function of the transport and every body as state changes and one list of outputs. -/

namespace Sys2Proof.Machine

theorem writeNibble_eq (n : Nibble) (rs : Bool) (s : State) : writeNibble n rs s = emit (outNibble s.backlight rs n) s := by
  refine Run.andThen_congr fun t h => ?_
  rw [busWrite_done h]
  simp [State.expanderByte, emit]

theorem sendByte_eq (v : Byte) (rs : Bool) (s : State) : sendByte v rs s = emit (outByte s.backlight rs v) s := by
  simp only [sendByte, outByte, doAll_cons, writeNibble_eq, emit_append]
  refine Run.andThen_congr fun t h => ?_
  rw [(emit_done h).1]
  simp [writeNibble_eq]

theorem settle_eq (cmd : Byte) (s : State) : settle cmd s = emit (if cmd.toNat ≤ 3 then [.d 5] else []) s := by
  unfold settle
  split <;> simp [emit]

theorem writeCommand_eq (cmd : Byte) (s : State) : writeCommand cmd s = emit (outCommand s.backlight cmd) s := by
  simp only [writeCommand, outCommand, doAll_cons, sendByte_eq, emit_append]
  refine Run.andThen_congr fun t _ => ?_
  simp [settle_eq]

theorem writeData_eq (d : Byte) (s : State) : writeData d s = emit (outData s.backlight d) s := sendByte_eq d true s

theorem writeInitNibble_eq (n : Nibble) (s : State) : writeInitNibble n s = emit (outNibble false false n) s := rfl

theorem writeBacklight_eq (s : State) : writeBacklight s = emit [.w (backlightBits s.backlight)] s :=
  (Run.andThen_done _).symm

theorem busWrite_eq (b : Byte) (s : State) : busWrite b s = emit [.w b] s := (Run.andThen_done _).symm

theorem updateDisplayControl_eq (s : State) : updateDisplayControl s = emit (outFlags s) s := writeCommand_eq _ s

theorem readdress_eq (s : State) : readdress s = emit (outAddress s.backlight s.cur) s := writeCommand_eq _ s

theorem bodyClear_eq (s : State) :
    bodyClear s = (emit (outCommand s.backlight CLR ++ outCommand s.backlight HOME) s).andThen fun t => .done (t.setCur homePos) := by
  simp only [bodyClear, encClear, List.map, doAll_cons, writeCommand_eq, emit_append, Run.andThen_assoc]
  refine Run.andThen_congr fun t h => ?_
  rw [(emit_done h).1]
  refine Run.andThen_congr fun u _ => ?_
  rfl

theorem bodyCursor_eq (v : Bool) (s : State) : bodyCursor v s = emit (outFlags (s.setCursor v)) (s.setCursor v) := by
  simp [bodyCursor, updateDisplayControl_eq]

theorem bodyBlink_eq (v : Bool) (s : State) : bodyBlink v s = emit (outFlags (s.setBlink v)) (s.setBlink v) := by
  simp [bodyBlink, updateDisplayControl_eq]

theorem bodyDisplay_eq (v : Bool) (s : State) : bodyDisplay v s = emit (outFlags (s.setDisplay v)) (s.setDisplay v) := by
  simp [bodyDisplay, updateDisplayControl_eq]

theorem bodyBacklight_eq (v : Bool) (s : State) : bodyBacklight v s = emit [.w (backlightBits v)] (s.setBacklight v) := by
  simp [bodyBacklight, writeBacklight_eq]

theorem bodyMove_eq (save : Bool) (p : Pos) (s : State) :
    bodyMove save p s = emit (outAddress s.backlight p) (if save then saveAndMove p s else moveTo p s) := by
  cases save <;> simp [bodyMove, readdress_eq, saveAndMove, moveTo]

/-- PUTC: the data, then the new position, then the re-address. -/
theorem bodyPutc_eq (ch : Byte) (s : State) :
    bodyPutc ch s = (emit (charData s.backlight ch) s).andThen fun t => emit (s.charAddress ch) (t.setCur (s.posAfter ch)) := by
  by_cases hn : ch = NEWLINE
  · simp [bodyPutc, hn, charData, State.charAddress, State.posAfter, emit, newline, readdress_eq]
  · simp only [bodyPutc, if_neg hn, charData, doAll_cons, writeData_eq]
    refine Run.andThen_congr fun t h => ?_
    rw [(emit_done h).1]
    by_cases hl : atLastColumn s
    · have hl' : s.cur.col.toNat + 1 = s.numColumns.toNat := by simpa [atLastColumn] using hl
      simp [advanceAndReaddress, advance, atLastColumn, hl', newline, State.charAddress, State.posAfter, readdress_eq]
    · have hl' : ¬ s.cur.col.toNat + 1 = s.numColumns.toNat := by simpa [atLastColumn] using hl
      simp [advanceAndReaddress, advance, atLastColumn, hl', hn, State.charAddress, State.posAfter, emit]

@[simp] theorem bodyPuts_nil (s : State) : bodyPuts [] s = .done s := rfl

@[simp] theorem bodyPuts_cons (ch : Byte) (rest : List Byte) (s : State) :
    bodyPuts (ch :: rest) s = (bodyPutc ch s).andThen (bodyPuts rest) := rfl

/-- In a calm environment a string is printed whole. -/
theorem bodyPuts_calm {text : List Byte} {s : State} (h : s.calm (writesIn (s.outsAll text)) (delaysIn (s.outsAll text))) :
    bodyPuts text s = .done (s.typedAll text) := by
  induction text generalizing s with
  | nil => rfl
  | cons ch rest ih =>
    have hc : s.calm (writesIn (charData s.backlight ch ++ s.charAddress ch) + writesIn ((s.typed ch).outsAll rest))
        (delaysIn (charData s.backlight ch ++ s.charAddress ch) + delaysIn ((s.typed ch).outsAll rest)) := by
      simpa [State.outsAll, Nat.add_assoc] using h
    have ht : (s.typed ch).calm (writesIn ((s.typed ch).outsAll rest)) (delaysIn ((s.typed ch).outsAll rest)) :=
      calm_emitted (charData s.backlight ch ++ s.charAddress ch) hc
    have hp : bodyPutc ch s = .done (s.typed ch) := by
      rw [bodyPutc_eq, emit_calm (calm_mono hc (by simp only [writesIn_append]; omega) (by simp only [delaysIn_append]; omega))]
      have ha : ((s.emitted (charData s.backlight ch)).setCur (s.posAfter ch)).calm (writesIn (s.charAddress ch))
          (delaysIn (s.charAddress ch)) :=
        calm_emitted (charData s.backlight ch)
          (calm_mono hc (by simp only [writesIn_append]; omega) (by simp only [delaysIn_append]; omega))
      rw [Run.done_andThen, emit_calm ha]
      simp [State.typed, State.emitted, State.setCur]
    rw [bodyPuts_cons, hp, Run.done_andThen, ih ht]
    rfl

theorem bodyPutsAt_eq (p : Pos) (text : List Byte) (s : State) :
    bodyPutsAt p text s = (emit (outAddress s.backlight p) (saveAndMove p s)).andThen fun t =>
      (bodyPuts text t).andThen fun u => emit (outAddress u.backlight u.saved) (restore u) := by
  simp only [bodyPutsAt, doAll_cons, change_apply, Run.done_andThen, readdress_eq]
  refine Run.andThen_congr fun t _ => ?_
  simp only [doAll_cons]
  refine Run.andThen_congr fun u _ => ?_
  simp [readdress_eq, restore]

/-- The data bytes of a bitmap. -/
theorem glyphData_eq (bitmap : List Byte) (s : State) :
    doAll (bitmap.map writeData) s = emit (bitmap.flatMap (outData s.backlight)) s := by
  induction bitmap generalizing s with
  | nil => rfl
  | cons b rest ih =>
    simp only [List.map_cons, doAll_cons, List.flatMap_cons, emit_append, writeData_eq]
    refine Run.andThen_congr fun t h => ?_
    rw [ih, (emit_done h).1]
    simp

theorem bodyGlyph_eq (slot8 : Byte) (bitmap : List Byte) (s : State) :
    bodyGlyph slot8 bitmap s = emit (outCommand s.backlight (encCgram slot8.toNat) ++ bitmap.flatMap (outData s.backlight) ++
      outAddress s.backlight s.cur) s := by
  simp only [bodyGlyph, doAll_cons, writeCommand_eq, emit_append, Run.andThen_assoc]
  refine Run.andThen_congr fun t h => ?_
  rw [(emit_done h).1]
  simp only [doAll_cons, glyphData_eq, State.emitted_backlight]
  refine Run.andThen_congr fun u h' => ?_
  rw [(emit_done h').1]
  simp [readdress_eq]

/-- The position that a step of the base initializer writes after it has sent (70_reset_and_hazards.md R154). -/
def State.bodyEnds (s : State) : InitBody → State
  | .clear => s.setCur homePos
  | .displayOff => s
  | .backlightOn => s
  | .cursorOff => s
  | .displayOn => s

/-- A step of the base initializer: registers, outputs, then the position. -/
theorem initBody_eq (b : InitBody) (s : State) :
    initBody b s = (emit ((s.bodyWrites b).outBody b) (s.bodyWrites b)).andThen fun t => .done (t.bodyEnds b) := by
  cases b with
  | clear => exact bodyClear_eq s
  | displayOff => exact (bodyDisplay_eq false s).trans (Run.andThen_done _).symm
  | backlightOn => exact (bodyBacklight_eq true s).trans (Run.andThen_done _).symm
  | cursorOff => exact (bodyCursor_eq false s).trans (Run.andThen_done _).symm
  | displayOn => exact (bodyDisplay_eq true s).trans (Run.andThen_done _).symm

/-! How many events each kind of output has. -/

@[simp] theorem writesIn_outNibble (bl rs : Bool) (n : Nibble) : writesIn (outNibble bl rs n) = 2 := rfl
@[simp] theorem delaysIn_outNibble (bl rs : Bool) (n : Nibble) : delaysIn (outNibble bl rs n) = 0 := rfl
@[simp] theorem writesIn_outByte (bl rs : Bool) (v : Byte) : writesIn (outByte bl rs v) = 4 := rfl
@[simp] theorem delaysIn_outByte (bl rs : Bool) (v : Byte) : delaysIn (outByte bl rs v) = 0 := rfl
@[simp] theorem writesIn_outData (bl : Bool) (v : Byte) : writesIn (outData bl v) = 4 := rfl
@[simp] theorem delaysIn_outData (bl : Bool) (v : Byte) : delaysIn (outData bl v) = 0 := rfl

@[simp] theorem writesIn_outCommand (bl : Bool) (cmd : Byte) : writesIn (outCommand bl cmd) = 4 := by
  by_cases h : cmd.toNat ≤ 3 <;> simp [outCommand, h, writesIn]

theorem delaysIn_outCommand (bl : Bool) (cmd : Byte) : delaysIn (outCommand bl cmd) = if cmd.toNat ≤ 3 then 1 else 0 := by
  by_cases h : cmd.toNat ≤ 3 <;> simp [outCommand, h, delaysIn]

/-- No address command is a settling one. -/
theorem encDdram_toNat (a : BitVec 7) : 128 ≤ (encDdram a).toNat := by
  revert a
  decide

theorem encDisplayControl_toNat (d c b : Bool) : 8 ≤ (encDisplayControl d c b).toNat := by
  revert d c b
  decide

@[simp] theorem writesIn_outAddress (bl : Bool) (p : Pos) : writesIn (outAddress bl p) = 4 := writesIn_outCommand _ _

@[simp] theorem delaysIn_outAddress (bl : Bool) (p : Pos) : delaysIn (outAddress bl p) = 0 := by
  have := encDdram_toNat p.address
  rw [outAddress, delaysIn_outCommand, if_neg (by omega)]

@[simp] theorem writesIn_outFlags (s : State) : writesIn (outFlags s) = 4 := writesIn_outCommand _ _

@[simp] theorem delaysIn_outFlags (s : State) : delaysIn (outFlags s) = 0 := by
  have := encDisplayControl_toNat s.display s.cursor s.blink
  rw [outFlags, delaysIn_outCommand, if_neg (by omega)]

@[simp] theorem delaysIn_charData (bl : Bool) (ch : Byte) : delaysIn (charData bl ch) = 0 := by
  unfold charData
  split <;> simp [delaysIn]

@[simp] theorem delaysIn_charAddress (s : State) (ch : Byte) : delaysIn (s.charAddress ch) = 0 := by
  unfold State.charAddress
  split <;> simp [delaysIn]

/-- Printing never waits. -/
@[simp] theorem delaysIn_outsAll (s : State) (text : List Byte) : delaysIn (s.outsAll text) = 0 := by
  induction text generalizing s with
  | nil => rfl
  | cons ch rest ih => simp [State.outsAll, ih]

@[simp] theorem writesIn_flatMap_outData (bl : Bool) (bitmap : List Byte) :
    writesIn (bitmap.flatMap (outData bl)) = 4 * bitmap.length := by
  induction bitmap with
  | nil => rfl
  | cons b rest ih => simp only [List.flatMap_cons, writesIn_append, writesIn_outData, ih, List.length_cons]; omega

@[simp] theorem delaysIn_flatMap_outData (bl : Bool) (bitmap : List Byte) : delaysIn (bitmap.flatMap (outData bl)) = 0 := by
  induction bitmap with
  | nil => rfl
  | cons b rest ih => simp [ih]

/-! Printing changes the cursor and the records only. -/

@[simp] theorem typed_saved (s : State) (ch : Byte) : (s.typed ch).saved = s.saved := rfl
@[simp] theorem typed_backlight (s : State) (ch : Byte) : (s.typed ch).backlight = s.backlight := rfl

@[simp] theorem typedAll_saved (s : State) (text : List Byte) : (s.typedAll text).saved = s.saved := by
  induction text generalizing s with
  | nil => rfl
  | cons ch rest ih => simp [State.typedAll, ih]

@[simp] theorem typedAll_backlight (s : State) (text : List Byte) : (s.typedAll text).backlight = s.backlight := by
  induction text generalizing s with
  | nil => rfl
  | cons ch rest ih => simp [State.typedAll, ih]

/-- A printed string is its outputs and a new cursor. -/
theorem typedAll_eq (s : State) (text : List Byte) : ∃ p, s.typedAll text = (s.emitted (s.outsAll text)).setCur p := by
  induction text generalizing s with
  | nil => exact ⟨s.cur, by rw [State.typedAll, State.outsAll, emitted_nil]; rfl⟩
  | cons ch rest ih =>
    obtain ⟨p, hp⟩ := ih (s.typed ch)
    refine ⟨p, ?_⟩
    rw [State.typedAll, hp]
    simp [State.outsAll, State.typed, State.emitted, State.setCur, Nat.add_assoc]

end Sys2Proof.Machine
end

