-- ==== Sys2Proof/Laws/Controller.lean ====
section
/-! SUPPORT. The known memory of the controller that reads the trace, and what it makes of a nibble and a byte. -/

namespace Sys2Proof.Machine

/-! Memory. -/

/-- A cell written reads as what was written. -/
@[simp] theorem Memory.read_write_same (m : Memory) (a : Nat) (v : Byte) : (m.write a v).read a = some v := by
  induction m with
  | nil => simp [Memory.write, Memory.read]
  | cons c rest ih =>
    obtain ⟨b, w⟩ := c
    unfold Memory.write
    split
    · simp [Memory.read]
    split
    · simp [Memory.read]
    · rename_i h
      simp [Memory.read, h, ih]

/-- A write leaves every other cell alone. -/
theorem Memory.read_write_other (m : Memory) {a b : Nat} (v : Byte) (h : b ≠ a) : (m.write a v).read b = m.read b := by
  induction m with
  | nil => simp [Memory.write, Memory.read, h]
  | cons c rest ih =>
    obtain ⟨x, w⟩ := c
    unfold Memory.write
    split
    · simp [Memory.read, h]
    split
    · rename_i hx
      simp [Memory.read, h, ← hx]
    · simp only [Memory.read, ih]

theorem Memory.above_write {n a : Nat} {m : Memory} (v : Byte) (ha : n < a) (h : Memory.above n m = true) :
    Memory.above n (m.write a v) = true := by
  induction m with
  | nil => simp [Memory.write, Memory.above, ha]
  | cons c rest ih =>
    obtain ⟨b, w⟩ := c
    have h' : n < b ∧ Memory.above n rest = true := by simpa [Memory.above] using h
    unfold Memory.write
    split
    · simpa [Memory.above, ha] using h
    split
    · simpa [Memory.above, ha] using h'.2
    · have := ih h'.2
      simpa [Memory.above, h'.1] using this

theorem Memory.above_mono {n k : Nat} {m : Memory} (hn : k ≤ n) (h : Memory.above n m = true) : Memory.above k m = true := by
  simp only [Memory.above, List.all_eq_true, decide_eq_true_eq] at h ⊢
  exact fun c hc => Nat.lt_of_le_of_lt hn (h c hc)

/-- A write keeps the canonical form. -/
theorem Memory.wf_write {m : Memory} (a : Nat) (v : Byte) (h : Memory.wf m = true) : Memory.wf (m.write a v) = true := by
  induction m with
  | nil => simp [Memory.write, Memory.wf, Memory.above]
  | cons c rest ih =>
    obtain ⟨b, w⟩ := c
    have h' : Memory.above b rest = true ∧ Memory.wf rest = true := by simpa [Memory.wf] using h
    unfold Memory.write
    split
    · rename_i hlt
      have ha := Memory.above_mono (Nat.le_of_lt hlt) h'.1
      have hc : Memory.above a ((b, w) :: rest) = true := by simpa [Memory.above, hlt] using ha
      simp [Memory.wf, h', hc]
    split
    · rename_i heq
      simp [Memory.wf, heq, h']
    · rename_i hlt heq
      have hab : b < a := by omega
      simp [Memory.wf, Memory.above_write v hab h'.1, ih h'.2]

/-! Reading a trace. -/

@[simp] theorem Controller.run_nil (c : Controller) : c.run [] = c := rfl

@[simp] theorem Controller.run_append (c : Controller) (as bs : List Event) : c.run (as ++ bs) = (c.run as).run bs :=
  List.foldl_append

/-- Two expander bytes of one nibble, E low before them: the controller takes the nibble once. -/
theorem Controller.run_outNibble (c : Controller) (bl rs : Bool) (n : Nibble) (addr : BitVec 7) (h : c.latch.getLsbD 2 = false) :
    c.run ((outNibble bl rs n).map (Out.event addr)) =
      ({ c with latch := expanderBits n bl false rs } : Controller).nibble rs n := by
  have hb : ∀ (n : Nibble) (bl rs : Bool), (expanderBits n bl true rs).getLsbD 2 = true ∧ (expanderBits n bl false rs).getLsbD 2 = false ∧
      (expanderBits n bl false rs).getLsbD 1 = false ∧ (expanderBits n bl false rs).getLsbD 0 = rs ∧
      (expanderBits n bl false rs).extractLsb' 4 4 = n := by decide
  obtain ⟨h1, h2, h3, h4, h5⟩ := hb n bl rs
  simp only [outNibble, List.map, Out.event, Controller.run, List.foldl, Controller.observe, Controller.take, h, h1, h2, h3, h4, h5,
    Bool.false_and, Bool.true_and, Bool.not_false, if_true, Bool.false_eq_true, if_false]

/-- The four expander bytes of a byte, E low and a high nibble expected before them: the controller takes the byte. -/
theorem Controller.run_outByte (c : Controller) (bl rs : Bool) (v : Byte) (addr : BitVec 7) (h : c.latch.getLsbD 2 = false)
    (hl : c.link = .fourBit none) :
    c.run ((outByte bl rs v).map (Out.event addr)) =
      ({ c with latch := expanderBits (lowNibble v) bl false rs } : Controller).byte rs v := by
  have hb : ∀ (n : Nibble) (bl rs : Bool), (expanderBits n bl false rs).getLsbD 2 = false := by decide
  have hv : highNibble v ++ lowNibble v = v := by revert v; decide
  rw [outByte, List.map_append, Controller.run_append, Controller.run_outNibble c bl rs _ addr h]
  have hn : ({ c with latch := expanderBits (highNibble v) bl false rs } : Controller).nibble rs (highNibble v) =
      { c with latch := expanderBits (highNibble v) bl false rs, link := .fourBit (some (highNibble v)) } := by
    simp [Controller.nibble, hl]
  rw [hn, Controller.run_outNibble _ bl rs _ addr (hb _ _ _)]
  simp only [Controller.nibble]
  rw [hv]
  cases c
  simp_all

end Sys2Proof.Machine
end

