-- ==== Sys2Proof/Laws/Header.lean ====
section
/-! SUPPORT. The fields of a header the encoder builds are the ones it was given. -/

namespace Sys2Proof

theorem append_toNat {n m : Nat} (x : BitVec n) (y : BitVec m) : (x ++ y).toNat = x.toNat * 2 ^ m + y.toNat := by
  rw [BitVec.toNat_append, ← Nat.shiftLeft_add_eq_or_of_lt y.isLt, Nat.shiftLeft_eq]

variable (opc : BitVec 4) (f : Bool) (row : BitVec 2) (col : BitVec 6) (len low : Byte)

theorem header_toNat : (header opc f row col len low).toNat =
    opc.toNat * 2 ^ 28 + f.toNat * 2 ^ 27 + row.toNat * 2 ^ 24 + col.toNat * 2 ^ 16 + len.toNat * 2 ^ 8 + low.toNat := by
  change (opc ++ BitVec.ofBool f ++ 0#1 ++ row ++ 0#2 ++ col ++ len ++ low).toNat = _
  simp only [append_toNat, BitVec.toNat_ofBool, BitVec.toNat_ofNat]
  omega

/-- Extracting bits is division and remainder. -/
theorem extract_toNat {w : Nat} (h : BitVec w) (lo n : Nat) : (h.extractLsb' lo n).toNat = h.toNat / 2 ^ lo % 2 ^ n := by
  rw [BitVec.extractLsb'_toNat, Nat.shiftRight_eq_div_pow]

/-- One bit is division and parity. -/
theorem getLsbD_eq_div {w : Nat} (h : BitVec w) (i : Nat) : h.getLsbD i = decide (h.toNat / 2 ^ i % 2 = 1) := by
  rw [BitVec.getLsbD, Nat.testBit_eq_decide_div_mod_eq]

@[simp] theorem hdrOpc_header : hdrOpc (header opc f row col len low) = opc := by
  apply BitVec.eq_of_toNat_eq
  have := f.toNat_le
  simp only [hdrOpc, extract_toNat, header_toNat]
  omega

@[simp] theorem hdrF_header : hdrF (header opc f row col len low) = f := by
  simp only [hdrF, getLsbD_eq_div, header_toNat]
  cases f <;> simp <;> omega

@[simp] theorem hdrRsv1_header : hdrRsv1 (header opc f row col len low) = false := by
  simp only [hdrRsv1, getLsbD_eq_div, header_toNat]
  cases f <;> simp <;> omega

@[simp] theorem hdrRow_header : hdrRow (header opc f row col len low) = row := by
  apply BitVec.eq_of_toNat_eq
  have := f.toNat_le
  simp only [hdrRow, extract_toNat, header_toNat]
  omega

@[simp] theorem hdrRsv2_header : hdrRsv2 (header opc f row col len low) = 0 := by
  apply BitVec.eq_of_toNat_eq
  have := f.toNat_le
  simp only [hdrRsv2, extract_toNat, header_toNat, BitVec.ofNat_eq_ofNat, BitVec.toNat_ofNat]
  omega

@[simp] theorem hdrCol_header : hdrCol (header opc f row col len low) = col := by
  apply BitVec.eq_of_toNat_eq
  have := f.toNat_le
  simp only [hdrCol, extract_toNat, header_toNat]
  omega

@[simp] theorem hdrLen_header : hdrLen (header opc f row col len low) = len := by
  apply BitVec.eq_of_toNat_eq
  have := f.toNat_le
  simp only [hdrLen, extract_toNat, header_toNat]
  omega

@[simp] theorem hdrLow_header : hdrLow (header opc f row col len low) = low := by
  apply BitVec.eq_of_toNat_eq
  have := f.toNat_le
  simp only [hdrLow, extract_toNat, header_toNat]
  omega

/-- A header of a reserved opcode: the opcode above, the rest below. -/
@[simp] theorem hdrOpc_append (o : BitVec 4) (rest : BitVec 28) : hdrOpc (o ++ rest) = o := by
  apply BitVec.eq_of_toNat_eq
  change (((o ++ rest : BitVec (4 + 28)).extractLsb' 28 4)).toNat = _
  rw [extract_toNat, append_toNat]
  omega

@[simp] theorem hdrRest_append (o : BitVec 4) (rest : BitVec 28) : hdrRest (o ++ rest) = rest := by
  apply BitVec.eq_of_toNat_eq
  change (((o ++ rest : BitVec (4 + 28)).extractLsb' 0 28)).toNat = _
  rw [extract_toNat, append_toNat]
  omega

/-- A text that fits is as long as its LEN field says. -/
theorem lenField_toNat {text : List Byte} (h : text.length ≤ 255) : (BitVec.ofNat 8 text.length).toNat = text.length := by
  simp only [BitVec.toNat_ofNat]
  omega

end Sys2Proof
end

