-- ==== Sys2Proof/Laws/Decode.lean ====
section
/-! SUPPORT. What the frame checks accept and how they reject. -/

namespace Sys2Proof

/-- A frame is accepted exactly when its reserved fields and its unused fields are 0 and its payload has the fixed length. -/
theorem checkedFrame_ok_iff {u : FieldUse} {n : Nat} {f : Frame} {i j : Instr} :
    checkedFrame u n f i = .ok j ↔
      (hdrRsv1 f.header = false ∧ hdrRsv2 f.header = 0) ∧ unusedZero u f.header = true ∧ f.payload.length = n ∧ i = j := by
  unfold checkedFrame
  split
  · rename_i h
    rcases (by simpa using h : hdrRsv1 f.header = true ∨ ¬ hdrRsv2 f.header = 0#2) with h | h <;> simp [h]
  split
  · simp_all
  split <;> simp_all

/-- A bad header is named before the payload is looked at. -/
theorem checkedFrame_illegal {u : FieldUse} {n : Nat} {f : Frame} {i : Instr}
    (h : (hdrRsv1 f.header = true ∨ hdrRsv2 f.header ≠ 0) ∨ unusedZero u f.header = false) :
    checkedFrame u n f i = .error .reservedFieldSet ∨ checkedFrame u n f i = .error .unusedFieldSet := by
  unfold checkedFrame
  split
  · exact .inl rfl
  split
  · exact .inr rfl
  · simp_all

end Sys2Proof
end

