-- ==== Sys2Proof/Laws/Exec.lean ====
section
/-! SUPPORT. Everything exec can do, said once: a refusal, a held frame, an operation's body, or a list of outputs; and what a body
can leave. -/

namespace Sys2Proof.Machine

/-- RW is 0 (30_encoding.md R73). -/
def Out.plain : Out → Prop
  | .w b => b.getLsbD 1 = false
  | .d _ => True

/-- Every output has RW = 0. -/
def allPlain (outs : List Out) : Prop := ∀ o ∈ outs, o.plain

@[simp] theorem allPlain_nil : allPlain [] := by simp [allPlain]

@[simp] theorem allPlain_append (as bs : List Out) : allPlain (as ++ bs) ↔ allPlain as ∧ allPlain bs := by
  simp [allPlain, or_imp, forall_and]

theorem allPlain_prefix {as bs : List Out} (h : as <+: bs) (hb : allPlain bs) : allPlain as := fun o ho => hb o (h.subset ho)

theorem expanderBits_plain (n : Nibble) (bl e rs : Bool) : (Out.w (expanderBits n bl e rs)).plain := by
  revert n bl e rs
  unfold Out.plain
  decide

@[simp] theorem allPlain_outNibble (bl rs : Bool) (n : Nibble) : allPlain (outNibble bl rs n) := by
  simp [outNibble, allPlain, expanderBits_plain]

@[simp] theorem allPlain_outByte (bl rs : Bool) (v : Byte) : allPlain (outByte bl rs v) := by simp [outByte]

@[simp] theorem allPlain_outCommand (bl : Bool) (cmd : Byte) : allPlain (outCommand bl cmd) := by
  have hd : allPlain [Out.d 5] := by simp [allPlain, Out.plain]
  by_cases h : cmd.toNat ≤ 3 <;> simp [outCommand, h, hd]

@[simp] theorem allPlain_outData (bl : Bool) (v : Byte) : allPlain (outData bl v) := allPlain_outByte _ _ _
@[simp] theorem allPlain_outAddress (bl : Bool) (p : Pos) : allPlain (outAddress bl p) := allPlain_outCommand _ _
@[simp] theorem allPlain_outFlags (s : State) : allPlain (outFlags s) := allPlain_outCommand _ _

@[simp] theorem allPlain_charData (bl : Bool) (ch : Byte) : allPlain (charData bl ch) := by
  unfold charData
  split <;> simp

@[simp] theorem allPlain_charAddress (s : State) (ch : Byte) : allPlain (s.charAddress ch) := by
  unfold State.charAddress
  split <;> simp

@[simp] theorem allPlain_flatMap_outData (bl : Bool) (bitmap : List Byte) : allPlain (bitmap.flatMap (outData bl)) := by
  induction bitmap with
  | nil => simp
  | cons b rest ih => simp [ih]

theorem allPlain_backlight (bl : Bool) : allPlain [.w (backlightBits bl)] := by
  simp [allPlain, backlightBits, expanderBits_plain]

/-! What a body can leave. -/

/-- `t` is `s` after some outputs with RW = 0, with the positions and the flags as `t` has them. -/
def State.ranTo (s t : State) : Prop :=
  ∃ outs, allPlain outs ∧ t = { s.emitted outs with
    cur := t.cur, saved := t.saved, backlight := t.backlight, display := t.display, cursor := t.cursor, blink := t.blink }

theorem ranTo_refl (s : State) : s.ranTo s := ⟨[], allPlain_nil, by rw [emitted_nil]⟩

theorem ranTo_trans {s t u : State} (h : s.ranTo t) (h' : t.ranTo u) : s.ranTo u := by
  obtain ⟨as, ha, ht⟩ := h
  obtain ⟨bs, hb, hu⟩ := h'
  refine ⟨as ++ bs, by simp [ha, hb], ?_⟩
  rw [hu, ht]
  simp [State.emitted]

theorem ranTo_emitted (s : State) {outs : List Out} (h : allPlain outs) : s.ranTo (s.emitted outs) := ⟨outs, h, rfl⟩

theorem ranTo_setCur (s : State) (p : Pos) : s.ranTo (s.setCur p) := ⟨[], allPlain_nil, by rw [emitted_nil]; rfl⟩
theorem ranTo_setSaved (s : State) (p : Pos) : s.ranTo (s.setSaved p) := ⟨[], allPlain_nil, by rw [emitted_nil]; rfl⟩
theorem ranTo_setBacklight (s : State) (v : Bool) : s.ranTo (s.setBacklight v) := ⟨[], allPlain_nil, by rw [emitted_nil]; rfl⟩
theorem ranTo_setDisplay (s : State) (v : Bool) : s.ranTo (s.setDisplay v) := ⟨[], allPlain_nil, by rw [emitted_nil]; rfl⟩
theorem ranTo_setCursor (s : State) (v : Bool) : s.ranTo (s.setCursor v) := ⟨[], allPlain_nil, by rw [emitted_nil]; rfl⟩
theorem ranTo_setBlink (s : State) (v : Bool) : s.ranTo (s.setBlink v) := ⟨[], allPlain_nil, by rw [emitted_nil]; rfl⟩

theorem ranTo_emit (s : State) {outs : List Out} (h : allPlain outs) : s.ranTo (emit outs s).state := by
  obtain ⟨pre, hp, he⟩ := emit_state outs s
  rw [he]
  exact ranTo_emitted s (allPlain_prefix hp h)

theorem ranTo_andThen {s : State} {r : Run} {k : State → Run} (hr : s.ranTo r.state) (hk : ∀ t, r = .done t → t.ranTo (k t).state) :
    s.ranTo (r.andThen k).state := by
  rcases andThen_state r k with h | ⟨t, ht, h⟩
  · rwa [h]
  · rw [h]
    have hs : s.ranTo t := by simpa [ht, Run.state] using hr
    exact ranTo_trans hs (hk t ht)

theorem ranTo_bodyClear (s : State) : s.ranTo (bodyClear s).state := by
  rw [bodyClear_eq]
  exact ranTo_andThen (ranTo_emit s (by simp)) fun t _ => ranTo_setCur t homePos

theorem ranTo_bodyCursor (v : Bool) (s : State) : s.ranTo (bodyCursor v s).state := by
  rw [bodyCursor_eq]
  exact ranTo_trans (ranTo_setCursor s v) (ranTo_emit _ (by simp))

theorem ranTo_bodyBlink (v : Bool) (s : State) : s.ranTo (bodyBlink v s).state := by
  rw [bodyBlink_eq]
  exact ranTo_trans (ranTo_setBlink s v) (ranTo_emit _ (by simp))

theorem ranTo_bodyDisplay (v : Bool) (s : State) : s.ranTo (bodyDisplay v s).state := by
  rw [bodyDisplay_eq]
  exact ranTo_trans (ranTo_setDisplay s v) (ranTo_emit _ (by simp))

theorem ranTo_bodyBacklight (v : Bool) (s : State) : s.ranTo (bodyBacklight v s).state := by
  rw [bodyBacklight_eq]
  exact ranTo_trans (ranTo_setBacklight s v) (ranTo_emit _ (allPlain_backlight v))

theorem ranTo_bodyMove (save : Bool) (p : Pos) (s : State) : s.ranTo (bodyMove save p s).state := by
  rw [bodyMove_eq]
  refine ranTo_trans ?_ (ranTo_emit _ (by simp))
  cases save
  · exact ranTo_setCur s p
  · exact ranTo_trans (ranTo_setSaved s s.cur) (ranTo_setCur _ p)

theorem ranTo_bodyPutc (ch : Byte) (s : State) : s.ranTo (bodyPutc ch s).state := by
  rw [bodyPutc_eq]
  exact ranTo_andThen (ranTo_emit s (by simp)) fun t _ => ranTo_trans (ranTo_setCur t _) (ranTo_emit _ (by simp))

theorem ranTo_bodyPuts (text : List Byte) (s : State) : s.ranTo (bodyPuts text s).state := by
  induction text generalizing s with
  | nil => exact ranTo_refl s
  | cons ch rest ih =>
    rw [bodyPuts_cons]
    exact ranTo_andThen (ranTo_bodyPutc ch s) fun t _ => ih t

theorem ranTo_bodyPutsAt (p : Pos) (text : List Byte) (s : State) : s.ranTo (bodyPutsAt p text s).state := by
  rw [bodyPutsAt_eq]
  have h : s.ranTo (saveAndMove p s) := ranTo_trans (ranTo_setSaved s s.cur) (ranTo_setCur _ p)
  refine ranTo_trans h (ranTo_andThen (ranTo_emit _ (by simp)) fun t _ => ?_)
  refine ranTo_andThen (ranTo_bodyPuts text t) fun u _ => ?_
  exact ranTo_trans (ranTo_setCur u u.saved) (ranTo_emit _ (by simp))

theorem ranTo_bodyGlyph (slot8 : Byte) (bitmap : List Byte) (s : State) : s.ranTo (bodyGlyph slot8 bitmap s).state := by
  rw [bodyGlyph_eq]
  exact ranTo_emit s (by simp)

theorem ranTo_initBody (b : InitBody) (s : State) : s.ranTo (initBody b s).state := by
  cases b
  · exact ranTo_bodyDisplay false s
  · exact ranTo_bodyBacklight true s
  · exact ranTo_bodyClear s
  · exact ranTo_bodyCursor false s
  · exact ranTo_bodyDisplay true s

/-! exec. -/

/-- Everything an operation frame can do: it is held, refused, or its body runs to some end. -/
def Operates (s : State) (o : Host.Outcome State Fault Refusal) : Prop :=
  (s.phase.gate = .hold ∧ o = .next s) ∨ (s.phase.gate ≠ .hold ∧ ∃ r, o = .next (s.refuse r)) ∨
    (s.phase = .ready ∧ ∃ r : Run, s.ranTo r.state ∧ o = .next r.completed)

theorem execute_operates {inR : State → Bool} {body : State → Run} {s : State} (h : s.ranTo (body s).state) :
    Operates s (execute inR body s) := by
  rcases execute_cases inR body s with ⟨hp, he⟩ | ⟨hp, he⟩ | ⟨hp, -, he⟩ | ⟨hp, -, he⟩
  · exact .inl ⟨hp, he⟩
  · exact .inr (.inl ⟨by simp [hp, Phase.gate], _, he⟩)
  · exact .inr (.inl ⟨by simp [hp, Phase.gate], _, he⟩)
  · exact .inr (.inr ⟨hp, _, h, he⟩)

theorem executeIllegal_operates (s : State) : Operates s (executeIllegal s) := by
  cases h : s.phase <;> simp [Operates, executeIllegal, h, Phase.gate]

/-- Everything exec can do: an operation frame operates; a word sends a list of outputs with RW = 0. -/
theorem exec_cases (i : Instr) (s : State) :
    (isFrame i ∧ Operates s (exec i s)) ∨ (¬ isFrame i ∧ ∃ outs, allPlain outs ∧ exec i s = .next (emit outs s).finished) := by
  have frame : ∀ {i : Instr} {f : Frame}, encode i = .frame f → isFrame i := fun h => ⟨_, h⟩
  have word : ∀ {i : Instr} {w : BusWord}, encode i = .word w → ¬ isFrame i := fun h ⟨f, hf⟩ => by simp [h] at hf
  have command : ∀ cmd, ∃ outs, allPlain outs ∧ finish (writeCommand cmd s) = .next (emit outs s).finished := fun cmd =>
    ⟨outCommand s.backlight cmd, by simp, by rw [finish, writeCommand_eq]⟩
  cases i with
  | clear => exact .inl ⟨frame rfl, execute_operates (ranTo_bodyClear s)⟩
  | cursorOn => exact .inl ⟨frame rfl, execute_operates (ranTo_bodyCursor true s)⟩
  | cursorOff => exact .inl ⟨frame rfl, execute_operates (ranTo_bodyCursor false s)⟩
  | blinkOn => exact .inl ⟨frame rfl, execute_operates (ranTo_bodyBlink true s)⟩
  | blinkOff => exact .inl ⟨frame rfl, execute_operates (ranTo_bodyBlink false s)⟩
  | displayOn => exact .inl ⟨frame rfl, execute_operates (ranTo_bodyDisplay true s)⟩
  | displayOff => exact .inl ⟨frame rfl, execute_operates (ranTo_bodyDisplay false s)⟩
  | backlightOn => exact .inl ⟨frame rfl, execute_operates (ranTo_bodyBacklight true s)⟩
  | backlightOff => exact .inl ⟨frame rfl, execute_operates (ranTo_bodyBacklight false s)⟩
  | move save row col => exact .inl ⟨frame rfl, execute_operates (ranTo_bodyMove save ⟨row, col⟩ s)⟩
  | putc ch => exact .inl ⟨frame rfl, execute_operates (ranTo_bodyPutc ch s)⟩
  | puts text => exact .inl ⟨frame rfl, execute_operates (ranTo_bodyPuts text s)⟩
  | putsAt row col text => exact .inl ⟨frame rfl, execute_operates (ranTo_bodyPutsAt ⟨row, col⟩ text s)⟩
  | glyph slot8 bitmap => exact .inl ⟨frame rfl, execute_operates (ranTo_bodyGlyph slot8 bitmap s)⟩
  | reservedD rest => exact .inl ⟨frame rfl, executeIllegal_operates s⟩
  | reservedE rest => exact .inl ⟨frame rfl, executeIllegal_operates s⟩
  | reservedF rest => exact .inl ⟨frame rfl, executeIllegal_operates s⟩
  | cmdClr => exact .inr ⟨word rfl, command _⟩
  | cmdHome => exact .inr ⟨word rfl, command _⟩
  | cmdEntryModeInc => exact .inr ⟨word rfl, command _⟩
  | cmdDisplayControl d c b => exact .inr ⟨word rfl, command _⟩
  | cmdFunctionSet n => exact .inr ⟨word rfl, command _⟩
  | cmdCgramAddr slot => exact .inr ⟨word rfl, command _⟩
  | cmdDdramAddr addr => exact .inr ⟨word rfl, command _⟩
  | dataByte d => exact .inr ⟨word rfl, outData s.backlight d, by simp, by rw [exec, execDataByte, finish, writeData_eq]⟩
  | initNibbleReset => exact .inr ⟨word rfl, _, allPlain_outNibble false false (encInitNibble .reset), rfl⟩
  | initNibbleFunction => exact .inr ⟨word rfl, _, allPlain_outNibble false false (encInitNibble .fourBit), rfl⟩
  | expanderNibbleByte nibble bl e rs =>
    exact .inr ⟨word rfl, [.w (expanderBits nibble bl e rs)], by simp [allPlain, expanderBits_plain], by
      rw [exec, execExpanderNibbleByte, finish, busWrite_eq]⟩
  | expanderIdle => exact .inr ⟨word rfl, [.w IDLE], by simp [allPlain, Out.plain, IDLE], by rw [exec, execExpanderIdle, finish, busWrite_eq]⟩
  | expanderBacklight bl =>
    exact .inr ⟨word rfl, [.w (backlightBits bl)], allPlain_backlight bl, by rw [exec, execExpanderBacklight, finish, busWrite_eq]⟩

/-- exec always answers a next state. -/
theorem exec_next (i : Instr) (s : State) : ∃ t, exec i s = .next t := by
  rcases exec_cases i s with ⟨-, ⟨-, h⟩ | ⟨-, r, h⟩ | ⟨-, r, -, h⟩⟩ | ⟨-, outs, -, h⟩ <;> exact ⟨_, h⟩

end Sys2Proof.Machine
end

