-- ==== Sys2Proof/Laws/Step.lean ====
section
/-! SUPPORT. Everything a step can do, one equation for each case of the fetch. -/

namespace Sys2Proof.Machine

variable {s : State}

/-- A pending reset is taken first. -/
theorem step_reset {p : Params} (h : s.resetReq = some p) : step s = assertReset p s := by
  simp [step, fetch, h]

/-- In UNINIT the step is the release of reset. -/
theorem step_release (hr : s.resetReq = none) (hp : s.phase = .uninit) : step s = .next (release s) := by
  simp [step, fetch, hr, hp]

/-- How the step goes on with what the fetch gives. -/
def Fetched.outcome : Fetched → Host.Outcome State Fault Refusal
  | .run i t => exec i t
  | .settled o => o

theorem step_eq (s : State) : step s = (fetch s).outcome := by
  unfold step Fetched.outcome
  rfl

/-- While statements are left, the step runs the first of them. -/
theorem step_stmt {st : Stmt} {rest : List Stmt} (hr : s.resetReq = none) (hp : s.phase ≠ .uninit)
    (hs : s.statements = st :: rest) : step s = (fetchStmt st (s.setSeq rest)).outcome := by
  simp [step_eq, fetch, hr, hp, hs]

/-- With no statement left, the step takes the frame on the port. -/
theorem step_frame {f : Frame} {rest : List Frame} (hr : s.resetReq = none) (hp : s.phase ≠ .uninit)
    (hs : s.statements = []) (hf : s.frames = f :: rest) : step s = (fetchFrame f (s.setFrames rest)).outcome := by
  simp [step_eq, fetch, hr, hp, hs, hf]

/-- With nothing to do the step changes nothing. -/
theorem step_idle (hr : s.resetReq = none) (hp : s.phase ≠ .uninit) (hs : s.statements = []) (hf : s.frames = []) :
    step s = .next s := by
  simp [step_eq, fetch, Fetched.outcome, hr, hp, hs, hf]

/-- The cases of a step. -/
theorem step_cases (s : State) :
    (∃ p, s.resetReq = some p ∧ step s = assertReset p s) ∨
    (s.resetReq = none ∧ s.phase = .uninit ∧ step s = .next (release s)) ∨
    (∃ st rest, s.resetReq = none ∧ s.phase ≠ .uninit ∧ s.statements = st :: rest ∧
      step s = (fetchStmt st (s.setSeq rest)).outcome) ∨
    (∃ f rest, s.resetReq = none ∧ s.phase ≠ .uninit ∧ s.statements = [] ∧ s.frames = f :: rest ∧
      step s = (fetchFrame f (s.setFrames rest)).outcome) ∨
    (s.resetReq = none ∧ s.phase ≠ .uninit ∧ s.statements = [] ∧ s.frames = [] ∧ step s = .next s) := by
  cases hr : s.resetReq with
  | some p => exact .inl ⟨p, rfl, step_reset hr⟩
  | none =>
    by_cases hp : s.phase = .uninit
    · exact .inr (.inl ⟨rfl, hp, step_release hr hp⟩)
    · cases hs : s.statements with
      | cons st rest => exact .inr (.inr (.inl ⟨st, rest, rfl, hp, rfl, step_stmt hr hp hs⟩))
      | nil =>
        cases hf : s.frames with
        | cons f rest => exact .inr (.inr (.inr (.inl ⟨f, rest, rfl, hp, rfl, rfl, step_frame hr hp hs hf⟩)))
        | nil => exact .inr (.inr (.inr (.inr ⟨rfl, hp, rfl, rfl, step_idle hr hp hs hf⟩)))

/-! The cases of the fetch. -/

theorem fetchStmt_send {w : BusWord} {i : Instr} (h : decodeWord w = .ok i) : fetchStmt (.send w) s = .run i s := by
  simp [fetchStmt, h]

theorem fetchFrame_initFailed {f : Frame} (h : s.phase = .initFailed) :
    fetchFrame f s = .settled (.next (s.refuse .notReady)) := by
  simp [fetchFrame, h, Phase.gate]

theorem fetchFrame_ok {f : Frame} {i : Instr} (hp : s.phase ≠ .initFailed) (h : decodeFrame f = .ok i) :
    fetchFrame f s = .run i s := by
  cases hq : s.phase <;> simp_all [fetchFrame, Phase.gate]

/-- In READY a frame that does not decode, its payload length apart, is refused. -/
theorem fetchFrame_illegal {f : Frame} {e : DecodeError} (hp : s.phase = .ready) (h : decodeFrame f = .error e)
    (he : e ≠ .payloadLength) : fetchFrame f s = .settled (.next (s.refuse .illegalEncoding)) := by
  cases e <;> simp_all [fetchFrame, Phase.gate, executeIllegal]

/-- With its own sequence empty, an engine in READY or INIT_FAILED has no statement to run. -/
theorem statements_nil (hp : s.phase = .ready ∨ s.phase = .initFailed) (hs : s.seq = []) : s.statements = [] := by
  rcases hp with h | h <;> simp [State.statements, hs, program, h]

end Sys2Proof.Machine
end

