-- ==== Sys2Proof/Laws/Init.lean ====
section
/-! SUPPORT. What a statement of the initialization sequence can do, said once. -/

namespace Sys2Proof.Machine

/-- An engine on its program has a rest of that program to run. -/
theorem statements_suffix {s : State} (h : s.onProgram) : s.statements <:+ program s.numLines s.phase := by
  unfold State.statements
  split
  · exact List.suffix_rfl
  · exact h

/-- The state that writing a statement's registers leaves differs in registers only. -/
theorem stmtWrites_keeps (s : State) (st : Stmt) :
    (s.stmtWrites st).phase = s.phase ∧ (s.stmtWrites st).faultSeen = s.faultSeen ∧ (s.stmtWrites st).resetReq = s.resetReq ∧
    (s.stmtWrites st).bus = s.bus ∧ (s.stmtWrites st).timer = s.timer := by
  rcases st with _ | _ | b | _
  · exact ⟨rfl, rfl, rfl, rfl, rfl⟩
  · exact ⟨rfl, rfl, rfl, rfl, rfl⟩
  · cases b <;> exact ⟨rfl, rfl, rfl, rfl, rfl⟩
  · exact ⟨rfl, rfl, rfl, rfl, rfl⟩

/-- What a statement writes after it has sent. -/
def State.stmtEnds (s : State) : Stmt → State
  | .send _ => s
  | .wait _ => s
  | .body b => s.bodyEnds b
  | .enter p => s.setPhase p

@[simp] theorem stmtEnds_faultSeen (s : State) (st : Stmt) : (s.stmtEnds st).faultSeen = s.faultSeen := by
  rcases st with _ | _ | b | _ <;> first | rfl | (cases b <;> rfl)

/-- The statement's course: registers, outputs, then what it writes after them. -/
def StmtRuns (s : State) (rest : List Stmt) (st : Stmt) : Prop :=
  (fetchStmt st (s.setSeq rest)).outcome =
    .next ((emit ((s.stmtWrites st).outStmt st) ((s.stmtWrites st).setSeq rest)).andThen fun t => .done (t.stmtEnds st)).finished

theorem send_runs {s : State} {rest : List Stmt} {w : BusWord} {i : Instr} (hd : decodeWord w = .ok i)
    (he : exec i (s.setSeq rest) = .next (emit (outWord s.backlight w) (s.setSeq rest)).finished) : StmtRuns s rest (.send w) := by
  rw [StmtRuns, fetchStmt_send hd]
  exact he.trans (congrArg (fun r => Host.Outcome.next (Run.finished r)) (Run.andThen_done _).symm)

theorem command_runs {s : State} {rest : List Stmt} {cmd : Byte} {i : Instr} (hd : decodeWord (.command cmd) = .ok i)
    (he : exec i (s.setSeq rest) = finish (writeCommand cmd (s.setSeq rest))) : StmtRuns s rest (.send (.command cmd)) :=
  send_runs hd (by rw [he, finish, writeCommand_eq]; rfl)

theorem wait_runs (s : State) (rest : List Stmt) (ms : Nat) : StmtRuns s rest (.wait ms) := by
  change Host.Outcome.next (delay ms (s.setSeq rest)).finished =
    .next (((delay ms (s.setSeq rest)).andThen (emit [])).andThen fun t => .done t).finished
  cases delay ms (s.setSeq rest) <;> rfl

theorem body_runs (s : State) (rest : List Stmt) (b : InitBody) : StmtRuns s rest (.body b) := by
  change Host.Outcome.next (initBody b (s.setSeq rest)).finished = _
  rw [initBody_eq]
  cases b <;> rfl

theorem functionSet_runs (s : State) (rest : List Stmt) (n : Nat) : StmtRuns s rest (.send (.command (encFunctionSet n))) := by
  by_cases h : 1 < n
  · have e : encFunctionSet n = functionSetByte true := by simp [encFunctionSet, h]
    rw [e]
    exact command_runs (i := .cmdFunctionSet true) rfl rfl
  · have e : encFunctionSet n = functionSetByte false := by rw [encFunctionSet, decide_eq_false h]
    rw [e]
    exact command_runs (i := .cmdFunctionSet false) rfl rfl

/-- Every statement of every phase runs so. -/
theorem program_runs {s : State} {st : Stmt} (rest : List Stmt) (h : st ∈ program s.numLines s.phase) : StmtRuns s rest st := by
  have enter : ∀ p, StmtRuns s rest (.enter p) := fun _ => rfl
  have nibbleReset : StmtRuns s rest (.send (.initNibble (encInitNibble .reset))) := send_runs (i := .initNibbleReset) rfl rfl
  have nibbleFunction : StmtRuns s rest (.send (.initNibble (encInitNibble .fourBit))) := send_runs (i := .initNibbleFunction) rfl rfl
  have idle : StmtRuns s rest (.send (.idleByte IDLE)) :=
    send_runs (i := .expanderIdle) rfl (by rw [exec, execExpanderIdle, finish, busWrite_eq]; rfl)
  have entryMode : StmtRuns s rest (.send (.command encEntryMode)) := command_runs (i := .cmdEntryModeInc) rfl rfl
  have all : ∀ p, ∀ st ∈ program s.numLines p, StmtRuns s rest st := by
    intro p
    cases p <;>
      simp [program, modeReset, enter, nibbleReset, nibbleFunction, idle, entryMode, wait_runs, body_runs, functionSet_runs]
  exact all s.phase st h

end Sys2Proof.Machine
end

