-- ==== Sys2Proof/Laws/PerInstr.lean ====
section
/-! SUPPORT. The frame an instruction is written as has the payload length its header fixes (30_encoding.md R60), one lemma for
each constructor. -/

namespace Sys2Proof.Laws.FrameLength

/-- If the instruction is written as a frame, the payload is as long as the header says. -/
def Statement (i : Instr) : Prop :=
  i.wellFormed = true → ∀ f, encode i = .frame f → f.payload.length = payloadBytes f.header

/-- A frame without operands. -/
theorem bare (opc : BitVec 4) (h : opc.toNat ≠ 0xB ∧ opc.toNat ≠ 0xC) (f : Frame) (e : bareFrame opc = .frame f) :
    f.payload.length = payloadBytes f.header := by
  cases e
  simp only [payloadBytes, hdrOpc_header]
  split <;> simp_all

theorem clear : Statement .clear := fun _ f e => bare 0 (by decide) f e
theorem cursorOn : Statement .cursorOn := fun _ f e => bare 1 (by decide) f e
theorem cursorOff : Statement .cursorOff := fun _ f e => bare 2 (by decide) f e
theorem blinkOn : Statement .blinkOn := fun _ f e => bare 3 (by decide) f e
theorem blinkOff : Statement .blinkOff := fun _ f e => bare 4 (by decide) f e
theorem displayOn : Statement .displayOn := fun _ f e => bare 5 (by decide) f e
theorem displayOff : Statement .displayOff := fun _ f e => bare 6 (by decide) f e
theorem backlightOn : Statement .backlightOn := fun _ f e => bare 7 (by decide) f e
theorem backlightOff : Statement .backlightOff := fun _ f e => bare 8 (by decide) f e

theorem move (save row col) : Statement (.move save row col) := by
  rintro - f ⟨⟩
  simp [payloadBytes]

theorem putc (ch) : Statement (.putc ch) := by
  rintro - f ⟨⟩
  simp [payloadBytes]

theorem puts (text) : Statement (.puts text) := by
  rintro h f ⟨⟩
  have h' : text.length ≤ 255 := by simpa [Instr.wellFormed] using h
  simp [payloadBytes, lenField_toNat h']

theorem putsAt (row col text) : Statement (.putsAt row col text) := by
  rintro h f ⟨⟩
  have h' : text.length ≤ 255 := by simpa [Instr.wellFormed] using h
  simp [payloadBytes, lenField_toNat h']

theorem glyph (slot8 bitmap) : Statement (.glyph slot8 bitmap) := by
  rintro h f ⟨⟩
  have h' : bitmap.length = 8 := by simpa [Instr.wellFormed] using h
  simp [payloadBytes, h']

theorem reservedD (rest) : Statement (.reservedD rest) := by
  rintro - f ⟨⟩
  simp [payloadBytes]

theorem reservedE (rest) : Statement (.reservedE rest) := by
  rintro - f ⟨⟩
  simp [payloadBytes]

theorem reservedF (rest) : Statement (.reservedF rest) := by
  rintro - f ⟨⟩
  simp [payloadBytes]

theorem cmdClr : Statement .cmdClr := by rintro - f ⟨⟩
theorem cmdHome : Statement .cmdHome := by rintro - f ⟨⟩
theorem cmdEntryModeInc : Statement .cmdEntryModeInc := by rintro - f ⟨⟩
theorem cmdDisplayControl (d c b) : Statement (.cmdDisplayControl d c b) := by rintro - f ⟨⟩
theorem cmdFunctionSet (n) : Statement (.cmdFunctionSet n) := by rintro - f ⟨⟩
theorem cmdCgramAddr (slot) : Statement (.cmdCgramAddr slot) := by rintro - f ⟨⟩
theorem cmdDdramAddr (addr) : Statement (.cmdDdramAddr addr) := by rintro - f ⟨⟩
theorem dataByte (d) : Statement (.dataByte d) := by rintro - f ⟨⟩
theorem initNibbleReset : Statement .initNibbleReset := by rintro - f ⟨⟩
theorem initNibbleFunction : Statement .initNibbleFunction := by rintro - f ⟨⟩
theorem expanderNibbleByte (nibble bl e rs) : Statement (.expanderNibbleByte nibble bl e rs) := by rintro - f ⟨⟩
theorem expanderIdle : Statement .expanderIdle := by rintro - f ⟨⟩
theorem expanderBacklight (bl) : Statement (.expanderBacklight bl) := by rintro - f ⟨⟩

end Sys2Proof.Laws.FrameLength
end

