-- ==== Sys2Proof/Tests/Slice0.lean ====
section
/-! SUPPORT. Tests against 95_test_vectors.md, the well-formedness smoke test, decoding of words written out from 30_encoding.md, and a
witness for the hypotheses of every obligation that has some. -/

namespace Sys2Proof.Tests

open Sys2Proof.Machine

/-! States. -/

/-- READY 2x16 of 95_test_vectors.md, with an undisturbed bus and undisturbed delays. -/
def ready : State :=
  { State.reset with phase := .ready, display := true, bus := ⟨List.replicate 45 .ok, 0⟩, timer := ⟨List.replicate 8 .elapsed, 0⟩ }

/-- READY 4x20. -/
def ready4 : State := { ready with numLines := 4, numColumns := 20 }

/-- The one fault value that every responder is known to have. -/
def nack : BusFault := ⟨0, .inl rfl⟩

/-- READY 2x16 with a fault at the write numbered `k` from 0. -/
def faulty (k : Nat) : State := { ready with bus := ⟨List.replicate k .ok ++ [.fault nack], 0⟩ }

/-- Any parameters within their domains: 6 lines, 80 columns (E5). -/
def params6x80 : Params := { lines := 6, columns := 80, i2cAddr := 0x27, backlight := true, cursor := false, blink := false }

/-- READY 2x16 with a reset that comes at the write numbered `k` from 0. -/
def cutOff (k : Nat) : State := { ready with bus := ⟨List.replicate k .ok ++ [.reset params6x80], 0⟩ }

/-- An engine in the given phase, with an undisturbed environment. -/
def inPhase (p : Phase) : State := { ready with phase := p, display := false }

/-- INIT_FAILED, as a fault at the idle write leaves it. -/
def initFailed : State := { ready with phase := .initFailed, display := false, status := .fault nack, faultSeen := true }

/-- A controller in step with READY 2x16 at (0, 0). -/
def inStep : Controller :=
  { latch := 0x08, link := .fourBit none, pointer := .ddram 0, increments := true, twoLine := true, display := true, cursor := false,
    blink := false, ddram := [], cgram := [] }

/-- The state an outcome leaves. -/
def left (o : Host.Outcome State Fault Refusal) : Option State :=
  match o with
  | .next t => some t
  | .fault _ => none
  | .refused _ => none

/-- A trace event without its bus address. -/
def shortly : Event → Out
  | .write _ b => .w b
  | .delay ms => .d ms

/-- What an outcome's trace holds, without the bus address. -/
def sent (o : Host.Outcome State Fault Refusal) : Option (List Out) := (left o).map fun t => t.trace.map shortly

/-- What an outcome leaves of a field. -/
def after {α : Type} (f : State → α) (o : Host.Outcome State Fault Refusal) : Option α := (left o).map f

/-- Bus writes only. -/
def ws (bytes : List Byte) : List Out := bytes.map .w

/-- Whether a decoding gives exactly this instruction. -/
def decodesTo (e : Except DecodeError Instr) (i : Instr) : Bool :=
  match e with
  | .ok j => decide (i = j)
  | .error _ => false

/-- Whether a decoding rejects with exactly this reason. -/
def rejects (e : Except DecodeError Instr) (r : DecodeError) : Bool :=
  match e with
  | .ok _ => false
  | .error r' => decide (r = r')

/-! Well-formedness: an ill-formed term for each check. -/

theorem test_wf_text_too_long : (Instr.puts (List.replicate 256 0x41)).wellFormed = false := by
  rw [Instr.wellFormed, textFits, List.length_replicate]; decide
theorem test_wf_text_at_too_long : (Instr.putsAt 0 0 (List.replicate 256 0x41)).wellFormed = false := by
  rw [Instr.wellFormed, textFits, List.length_replicate]; decide
theorem test_wf_bitmap_too_short : (Instr.glyph 0 [1, 2, 3, 4, 5, 6, 7]).wellFormed = false := by decide
theorem test_wf_text_longest : (Instr.puts (List.replicate 255 0x41)).wellFormed = true := by
  rw [Instr.wellFormed, textFits, List.length_replicate]; decide

/-! Decoding, words written out from 30_encoding.md R56 to R75 and 95_test_vectors.md 2.4. -/

-- OPC = 0x1
theorem test_decode_cursor_on : decodesTo (decodeFrame ⟨0b0001_0_0_00_00_000000_00000000_00000000, []⟩) .cursorOn = true := by decide
-- OPC = 0x7
theorem test_decode_backlight_on : decodesTo (decodeFrame ⟨0b0111_0_0_00_00_000000_00000000_00000000, []⟩) .backlightOn = true := by
  decide
-- MOVE.S 1, 5: OPC = 0x9, F = 1, ROW = 1, COL = 5
theorem test_decode_move : decodesTo (decodeFrame ⟨0b1001_1_0_01_00_000101_00000000_00000000, []⟩) (.move true 1 5) = true := by decide
-- PUTC 'A': OPC = 0xA, LOW = 0x41
theorem test_decode_putc : decodesTo (decodeFrame ⟨0b1010_0_0_00_00_000000_00000000_01000001, []⟩) (.putc 0x41) = true := by decide
-- PUTS "Hi": OPC = 0xB, LEN = 2
theorem test_decode_puts :
    decodesTo (decodeFrame ⟨0b1011_0_0_00_00_000000_00000010_00000000, [0x48, 0x69]⟩) (.puts [0x48, 0x69]) = true := by decide
-- PUTS 1, 5, "X": OPC = 0xB, F = 1, ROW = 1, COL = 5, LEN = 1
theorem test_decode_puts_at :
    decodesTo (decodeFrame ⟨0b1011_1_0_01_00_000101_00000001_00000000, [0x58]⟩) (.putsAt 1 5 [0x58]) = true := by decide
-- GLYPH 9: OPC = 0xC, LOW = 9
theorem test_decode_glyph :
    decodesTo (decodeFrame ⟨0b1100_0_0_00_00_000000_00000000_00001001, [1, 2, 3, 4, 5, 6, 7, 8]⟩)
      (.glyph 9 [1, 2, 3, 4, 5, 6, 7, 8]) = true := by decide
-- OPC = 0xD
theorem test_decode_reserved : decodesTo (decodeFrame ⟨0b1101_0_0_00_00_000000_00000000_00000000, []⟩) (.reservedD 0) = true := by
  decide
-- RSV1 = 1; LEN used by MOVE; PUTC with F = 1; PUTS with one byte missing
theorem test_reject_rsv1 : rejects (decodeFrame ⟨0x94000000, []⟩) .reservedFieldSet = true := by decide
theorem test_reject_unused : rejects (decodeFrame ⟨0x90000100, []⟩) .unusedFieldSet = true := by decide
theorem test_reject_putc_f : rejects (decodeFrame ⟨0xA8000041, []⟩) .unusedFieldSet = true := by decide
theorem test_reject_payload : rejects (decodeFrame ⟨0xB0000200, [0x48]⟩) .payloadLength = true := by decide
-- 0b0000_1DCB with D = 1, C = 0, B = 1; 0b01ss_s000 with slot 1; 0b1aaa_aaaa with 0x7B
theorem test_decode_display_control : decodesTo (decodeWord (.command 0b0000_1101)) (.cmdDisplayControl true false true) = true := by
  decide
theorem test_decode_cgram : decodesTo (decodeWord (.command 0b0100_1000)) (.cmdCgramAddr 1) = true := by decide
theorem test_decode_ddram : decodesTo (decodeWord (.command 0b1111_1011)) (.cmdDdramAddr 0x7B) = true := by decide
-- the engine has no command 0x03 (95_test_vectors.md 2.3)
theorem test_reject_command : rejects (decodeWord (.command 0x03)) .notACommand = true := by decide
theorem test_decode_init_nibble : decodesTo (decodeWord (.initNibble 0b0010)) .initNibbleFunction = true := by decide
-- D7..D4 = 4, BL = 1, E = 1, RW = 0, RS = 1 (42_nibble_transport.md R101: 0x4D); RW = 1 is none of the engine's
theorem test_decode_nibble_byte : decodesTo (decodeWord (.nibbleByte 0b0100_1101)) (.expanderNibbleByte 4 true true true) = true := by
  decide
theorem test_reject_rw : rejects (decodeWord (.nibbleByte 0b0100_1111)) .rwSet = true := by decide
theorem test_decode_backlight_byte : decodesTo (decodeWord (.backlightByte 0x08)) (.expanderBacklight true) = true := by decide

/-! Operations, 95_test_vectors.md 2.5. -/

theorem test_clear_sends : sent (exec .clear { ready with cur := ⟨1, 4⟩ }) =
    some (ws [0x0C, 0x08, 0x1C, 0x18] ++ [.d 5] ++ ws [0x0C, 0x08, 0x2C, 0x28] ++ [.d 5]) := by decide
theorem test_clear_fault_keeps_cur : after (·.cur) (exec .clear { faulty 5 with cur := ⟨1, 4⟩ }) = some ⟨1, 4⟩ := by decide
theorem test_cursor_on : sent (exec .cursorOn ready) = some (ws [0x0C, 0x08, 0xEC, 0xE8]) := by decide
theorem test_cursor_off_keeps_blink : sent (exec .cursorOff { ready with blink := true }) = some (ws [0x0C, 0x08, 0xDC, 0xD8]) := by
  decide
theorem test_blink_on : sent (exec .blinkOn ready) = some (ws [0x0C, 0x08, 0xDC, 0xD8]) := by decide
theorem test_blink_off : sent (exec .blinkOff { ready with cursor := true, blink := true }) = some (ws [0x0C, 0x08, 0xEC, 0xE8]) := by
  decide
theorem test_display_on : sent (exec .displayOn { ready with display := false, cursor := true }) =
    some (ws [0x0C, 0x08, 0xEC, 0xE8]) := by decide
theorem test_display_off_unlit : sent (exec .displayOff { ready with backlight := false, cursor := true }) =
    some (ws [0x04, 0x00, 0xA4, 0xA0]) := by decide
theorem test_backlight_on : sent (exec .backlightOn { ready with backlight := false }) = some (ws [0x08]) := by decide
theorem test_backlight_off : sent (exec .backlightOff ready) = some (ws [0x00]) := by decide
theorem test_move_save : after (fun t => (t.cur, t.saved, t.trace.map shortly)) (exec (.move true 1 5) { ready with cur := ⟨0, 3⟩ }) =
    some (⟨1, 5⟩, ⟨0, 3⟩, ws [0xCC, 0xC8, 0x5C, 0x58]) := by decide
theorem test_move_out_of_range : after (fun t => (t.cur, t.saved, t.refused, t.replies)) (exec (.move true 0 32) ready) =
    some (⟨0, 0⟩, ⟨0, 0⟩, true, [.refused .outOfRange]) := by decide
theorem test_putc_wraps : after (fun t => (t.cur, t.trace.map shortly)) (exec (.putc 0x42) { ready with cur := ⟨0, 15⟩ }) =
    some (⟨1, 0⟩, ws [0x4D, 0x49, 0x2D, 0x29, 0xCC, 0xC8, 0x0C, 0x08]) := by decide
theorem test_putc_newline : after (fun t => (t.cur, t.trace.map shortly)) (exec (.putc 0x0A) { ready with cur := ⟨1, 7⟩ }) =
    some (⟨0, 0⟩, ws [0x8C, 0x88, 0x0C, 0x08]) := by decide
theorem test_puts : after (fun t => (t.cur, t.trace.map shortly)) (exec (.puts [0x48, 0x69]) ready) =
    some (⟨0, 2⟩, ws [0x4D, 0x49, 0x8D, 0x89, 0x6D, 0x69, 0x9D, 0x99]) := by decide
-- a fault in the second character: the first printed, the cursor where the string stopped (43_driver_ops.md R124)
theorem test_puts_fault : after (fun t => (t.cur, t.status, t.trace.length)) (exec (.puts [0x48, 0x69]) (faulty 5)) =
    some (⟨0, 1⟩, .fault nack, 6) := by decide
theorem test_puts_at : after (fun t => (t.cur, t.saved, t.trace.map shortly)) (exec (.putsAt 1 5 [0x58]) { ready with cur := ⟨0, 3⟩ }) =
    some (⟨0, 3⟩, ⟨0, 3⟩, ws [0xCC, 0xC8, 0x5C, 0x58, 0x5D, 0x59, 0x8D, 0x89, 0x8C, 0x88, 0x3C, 0x38]) := by decide
theorem test_puts_at_wrap_and_newline : after (fun t => (t.cur, t.trace.map shortly))
    (exec (.putsAt 1 15 [0x41, 0x0A, 0x42]) { ready with cur := ⟨0, 2⟩ }) =
    some (⟨0, 2⟩, ws [0xCC, 0xC8, 0xFC, 0xF8, 0x4D, 0x49, 0x1D, 0x19, 0x8C, 0x88, 0x0C, 0x08, 0xCC, 0xC8, 0x0C, 0x08,
      0x4D, 0x49, 0x2D, 0x29, 0x8C, 0x88, 0x2C, 0x28]) := by decide
-- GLYPH 9 selects slot 1, command 0x48; then DDRAM 0x80 for (0, 0)
theorem test_glyph : (sent (exec (.glyph 9 [0x1F, 0, 0, 0, 0, 0, 0, 0xFF]) ready)).map (fun l => (l.take 8, l.drop 36)) =
    some (ws [0x4C, 0x48, 0x8C, 0x88, 0x1D, 0x19, 0xFD, 0xF9], ws [0x8C, 0x88, 0x0C, 0x08]) := by decide
theorem test_reserved_d : after (·.replies) (exec (.reservedD 0) ready) = some [.refused .illegalEncoding] := by decide
theorem test_reserved_e : after (·.replies) (exec (.reservedE 0) initFailed) = some [.refused .notReady] := by decide
theorem test_reserved_f : after (fun t => (t.refused, t.trace)) (exec (.reservedF 0) ready) = some (true, []) := by decide

/-! Words of Parts B and C, 95_test_vectors.md 2.3. -/

theorem test_cmd_clr : sent (exec .cmdClr ready) = some (ws [0x0C, 0x08, 0x1C, 0x18] ++ [.d 5]) := by decide
theorem test_cmd_home : sent (exec .cmdHome { ready with backlight := false }) = some (ws [0x04, 0x00, 0x24, 0x20] ++ [.d 5]) := by decide
theorem test_cmd_entry_mode : sent (exec .cmdEntryModeInc ready) = some (ws [0x0C, 0x08, 0x6C, 0x68]) := by decide
theorem test_cmd_display_control : sent (exec (.cmdDisplayControl true true true) ready) = some (ws [0x0C, 0x08, 0xFC, 0xF8]) := by
  decide
theorem test_cmd_function_set : sent (exec (.cmdFunctionSet true) ready) = some (ws [0x2C, 0x28, 0x8C, 0x88]) := by decide
theorem test_cmd_cgram : sent (exec (.cmdCgramAddr 1) ready) = some (ws [0x4C, 0x48, 0x8C, 0x88]) := by decide
theorem test_cmd_ddram : sent (exec (.cmdDdramAddr 0x45) ready) = some (ws [0xCC, 0xC8, 0x5C, 0x58]) := by decide
theorem test_data_byte : sent (exec (.dataByte 0x01) ready) = some (ws [0x0D, 0x09, 0x1D, 0x19]) := by decide
theorem test_init_nibble_reset : sent (exec .initNibbleReset ready) = some (ws [0x34, 0x30]) := by decide
theorem test_init_nibble_function : sent (exec .initNibbleFunction ready) = some (ws [0x24, 0x20]) := by decide
theorem test_nibble_byte : sent (exec (.expanderNibbleByte 4 true true true) ready) = some (ws [0x4D]) := by decide
theorem test_idle : sent (exec .expanderIdle ready) = some (ws [0x00]) := by decide
theorem test_backlight_byte : sent (exec (.expanderBacklight true) ready) = some (ws [0x08]) := by decide

/-! Steps. -/

theorem test_step_idle_write : sent (step (inPhase .powerUp)) = some (ws [0x00]) := by decide
-- 0xD0000000 in INIT_FAILED is refused NotReady (95_test_vectors.md 2.4)
theorem test_step_not_ready : after (·.replies) (step { initFailed with frames := [⟨0xD0000000, []⟩] }) = some [.refused .notReady] := by
  decide
-- 0x94100000 in READY is refused IllegalEncoding
theorem test_step_illegal : after (·.replies) (step { ready with frames := [⟨0x94100000, []⟩] }) =
    some [.refused .illegalEncoding] := by decide
theorem test_step_held : after (·.frames) (step { inPhase .fourBit with frames := [⟨0, []⟩] }) = some [⟨0, []⟩] := by decide
theorem test_step_reset_clamps : after (fun t => (t.numLines, t.numColumns, t.phase)) (step { ready with resetReq := some params6x80 }) =
    some (4, 40, .uninit) := by decide
theorem test_step_init_fault : after (fun t => (t.phase, t.status)) (step { faulty 0 with phase := .powerUp }) =
    some (.initFailed, .fault nack) := by decide
-- V-INIT-5, in the display-off step: the flag written before the failing write stays (92_eei_decisions.md D13)
theorem test_step_init_body_fault : after (fun t => (t.phase, t.display, t.trace.map shortly, t.seq))
    (step { faulty 1 with phase := .configured }) = some (.initFailed, false, ws [0x0C, 0x08], []) := by decide
theorem test_step_cut : after (fun t => (t.resetReq, t.replies, t.trace.length)) (exec .clear (cutOff 2)) =
    some (some params6x80, [], 3) := by decide
theorem test_memory_wf : Memory.wf (Memory.write (Memory.write [] 5 1) 3 2) = true := by decide
theorem test_placed_word : sent (step (State.reset.withFetchWord 8 0x06 |> fun s => { s with bus := ready.bus })) =
    some (ws [0x0C, 0x08, 0x6C, 0x68]) := by decide

/-! Witnesses: for every obligation with hypotheses, a state and operands that meet them together, one for each clause. The name says
which obligation. -/

theorem witness_DecodeOfEncode : (Instr.puts (List.replicate 255 0x41)).wellFormed = true ∧ (Instr.putsAt 3 63 []).wellFormed = true ∧
    (Instr.glyph 255 [1, 2, 3, 4, 5, 6, 7, 8]).wellFormed = true :=
  ⟨test_wf_text_longest, by decide, by decide⟩
theorem witness_MatchAndMaskSelectTheRow : decodesTo (decodeFrame ⟨0x9B3F0000, []⟩) (.move true 3 63) ∧
    decodesTo (decodeFrame ⟨0xA00000FF, []⟩) (.putc 0xFF) ∧ ([0x48, 0x69] : List Byte).length = (hdrLen 0xB0000200).toNat ∧
    0xB0000200#32 &&& 0xFFFF00FF = 0xB0000000 ∧ ([0x58] : List Byte).length = (hdrLen 0xB9050100).toNat ∧
    0xB9050100#32 &&& 0xFCC000FF = 0xB8000000 ∧ ([1, 2, 3, 4, 5, 6, 7, 8] : List Byte).length = 8 := by decide
theorem witness_IllegalHeadersAreRefused : { ready with frames := [⟨0x94000000, []⟩] }.readyIdle ∧ illegalHeader 0x94000000 ∧
    ¬ illegalHeader 0xB0000100 ∧ ([0x41] : List Byte).length = payloadBytes 0xB0000100 :=
  ⟨⟨by decide, by decide, by decide⟩, by unfold illegalHeader; decide, by unfold illegalHeader; decide, by decide⟩
theorem witness_FrameLengthIsFixed : decodesTo (decodeFrame ⟨0xC0000009, [1, 2, 3, 4, 5, 6, 7, 8]⟩) (.glyph 9 [1, 2, 3, 4, 5, 6, 7, 8]) ∧
    decodesTo (decodeFrame ⟨0xF0000000, []⟩) (.reservedF 0) := by decide
theorem witness_DecodedWordSendsItself : decodesTo (decodeWord (.command 0x06)) .cmdEntryModeInc ∧
    decodesTo (decodeWord (.data 0xFF)) (.dataByte 0xFF) ∧ decodesTo (decodeWord (.initNibble 3)) .initNibbleReset ∧
    decodesTo (decodeWord (.nibbleByte 0xFD)) (.expanderNibbleByte 0xF true true true) ∧
    decodesTo (decodeWord (.idleByte 0)) .expanderIdle ∧ decodesTo (decodeWord (.backlightByte 0)) (.expanderBacklight false) := by decide
theorem witness_DisplayAddressFormula : (39#6).toNat < 40 := by decide
theorem in_bounds (p : Pos) (h : ready.within p) : { ready with cur := p }.inBounds :=
  ⟨show ready.numLines.toNat ≤ MAX_LINES by decide, show ready.numColumns.toNat ≤ MAX_COLS by decide, h,
    show ready.saved.row.toNat < ready.numLines.toNat by decide, show ready.saved.col.toNat < ready.numColumns.toNat by decide⟩
theorem witness_AdvanceCountsAndWraps : { ready with cur := ⟨1, 15⟩ }.inBounds ∧ (15#6).toNat + 1 = ready.numColumns.toNat ∧
    { ready with cur := ⟨0, 14⟩ }.inBounds ∧ (14#6).toNat + 1 ≠ ready.numColumns.toNat :=
  ⟨in_bounds _ ⟨by decide, by decide⟩, by decide, in_bounds _ ⟨by decide, by decide⟩, by decide⟩
theorem witness_NewlineGoesToTheNextLine : { ready with cur := ⟨1, 0⟩ }.inBounds := in_bounds _ ⟨by decide, by decide⟩
theorem witness_CursorFunctionsKeepBounds : { ready with cur := ⟨1, 15⟩ }.inBounds ∧ ready.within ⟨1, 15⟩ :=
  ⟨in_bounds _ ⟨by decide, by decide⟩, by decide, by decide⟩
theorem witness_PrintingMovesByTheLength : ready.inBounds ∧ NEWLINE ∉ ([0x48, 0x69] : List Byte) :=
  ⟨in_bounds ⟨0, 0⟩ ⟨by decide, by decide⟩, by decide⟩

theorem calm_ready : ready.calm 45 8 := ⟨by decide, by decide⟩
theorem calm_of {s : State} {w d : Nat} (hb : s.bus = ready.bus) (ht : s.timer = ready.timer) (hw : w ≤ 45) (hd : d ≤ 8) : s.calm w d := by
  refine ⟨fun i hi => ?_, fun i hi => ?_⟩
  · rw [hb]
    exact calm_ready.1 i (by omega)
  · rw [ht]
    exact calm_ready.2 i (by omega)
theorem fails_at_0 : (faulty 0).failsAt 0 nack 0 := ⟨⟨by decide, by decide⟩, by decide⟩
theorem fails_at_3 : (faulty 3).failsAt 3 nack 0 := ⟨⟨by decide, by decide⟩, by decide⟩
theorem fails_at_39 : (faulty 39).failsAt 39 nack 0 := ⟨⟨by decide, by decide⟩, by decide⟩

theorem witness_WriteCommandOutputs : 3 < (0x06 : Byte).toNat ∧ (0x03 : Byte).toNat ≤ 3 ∧ ready.calm 4 0 ∧ ready.calm 4 1 ∧
    (faulty 3).failsAt 3 nack 0 :=
  ⟨by decide, by decide, calm_of rfl rfl (by decide) (by decide), calm_of rfl rfl (by decide) (by decide), fails_at_3⟩
theorem witness_WriteDataOutputs : ready.calm 4 0 ∧ (faulty 3).failsAt 3 nack 0 :=
  ⟨calm_of rfl rfl (by decide) (by decide), fails_at_3⟩
theorem witness_InitNibbleAndBacklightOutputs : ready.calm 2 0 ∧ ready.calm 1 0 ∧ (faulty 0).failsAt 0 nack 0 :=
  ⟨calm_of rfl rfl (by decide) (by decide), calm_of rfl rfl (by decide) (by decide), fails_at_0⟩
-- the fault falls on the second byte of HOME, after the first delay
theorem witness_ClearSendsAndHomes : ready.phase = .ready ∧ ready.calm 8 2 ∧
    { faulty 5 with timer := ready.timer }.failsAt 5 nack (delaysIn (upToWrite 5
      (outByte true false 0x01 ++ [Out.d 5] ++ outByte true false 0x02 ++ [Out.d 5]))) :=
  ⟨by decide, calm_of rfl rfl (by decide) (by decide), ⟨⟨by decide, by decide⟩, by decide⟩⟩
theorem witness_FlagOperationsWriteThenSend : ready.phase = .ready ∧ ready.calm 4 0 ∧ (faulty 3).phase = .ready ∧
    (faulty 3).failsAt 3 nack 0 := ⟨by decide, calm_of rfl rfl (by decide) (by decide), by decide, fails_at_3⟩
theorem witness_BacklightOperationsWriteThenSend : ready.phase = .ready ∧ ready.calm 1 0 ∧ (faulty 0).phase = .ready ∧
    (faulty 0).failsAt 0 nack 0 := ⟨by decide, calm_of rfl rfl (by decide) (by decide), by decide, fails_at_0⟩
theorem witness_MoveWritesThenSends : ready.phase = .ready ∧ ready.within ⟨1, 15⟩ ∧ ready.calm 4 0 ∧ (faulty 3).within ⟨1, 15⟩ ∧
    (faulty 3).failsAt 3 nack 0 :=
  ⟨by decide, ⟨by decide, by decide⟩, calm_of rfl rfl (by decide) (by decide), ⟨by decide, by decide⟩, fails_at_3⟩
-- at (0, 15) a character wraps, so a fault can fall on its data or on its re-address
theorem witness_PutcSendsThenMoves :
    let s : State := { ready with cur := ⟨0, 15⟩ }
    let f : State := { faulty 7 with cur := ⟨0, 15⟩ }
    s.phase = .ready ∧ s.calm (writesIn (charData s.backlight 0x42 ++ s.charAddress 0x42)) 0 ∧ 3 < writesIn (charData true 0x42) ∧
      (faulty 3).failsAt 3 nack 0 ∧ 3 < writesIn (f.charAddress 0x42) ∧ f.failsAt (writesIn (charData f.backlight 0x42) + 3) nack 0 :=
  ⟨by decide, calm_of rfl rfl (by decide) (by decide), by decide, fails_at_3, by decide, ⟨by decide, by decide⟩, by decide⟩
theorem witness_PutsPrintsInOrder : ready.phase = .ready ∧ ready.calm (writesIn (ready.outsAll [0x48, 0x69])) 0 ∧
    (faulty 5).calm (writesIn ((faulty 5).outsAll [0x48])) 0 ∧
    ∃ v, bodyPutc 0x69 ((faulty 5).typedAll [0x48]) = .raised nack v :=
  ⟨by decide, calm_of rfl rfl (by decide) (by decide), ⟨by decide, by decide⟩, _, rfl⟩
theorem witness_PutsAtRestoresTheCursor : ready.phase = .ready ∧ ready.within ⟨1, 5⟩ ∧ ready.calm (4 + 4 + 4) 0 ∧
    (faulty 3).failsAt 3 nack 0 ∧ (faulty 5).calm 4 0 ∧ (faulty 11).failsAt (8 + 3) nack 0 ∧
    ∃ v, bodyPutc 0x58 ((((faulty 5).setSaved ⟨0, 0⟩).setCur ⟨1, 5⟩).emitted (outCommand true 0xC5)) = .raised nack v :=
  ⟨by decide, ⟨by decide, by decide⟩, calm_of rfl rfl (by decide) (by decide), fails_at_3, ⟨by decide, by decide⟩,
    ⟨⟨by decide, by decide⟩, by decide⟩, _, rfl⟩
theorem witness_GlyphSendsFortyWrites : ready.phase = .ready ∧ ([1, 2, 3, 4, 5, 6, 7, 8] : List Byte).length = 8 ∧ ready.calm 40 0 ∧
    (faulty 39).failsAt 39 nack 0 := ⟨by decide, by decide, calm_of rfl rfl (by decide) (by decide), fails_at_39⟩
theorem witness_ReservedOpcodesAreRefused : ready.phase = .ready := by decide
theorem witness_CommandWordsSend : ready.calm 4 1 ∧ ready.calm 4 0 ∧ (faulty 3).failsAt 3 nack 0 :=
  ⟨calm_of rfl rfl (by decide) (by decide), calm_of rfl rfl (by decide) (by decide), fails_at_3⟩
theorem witness_DataAndNibbleWordsSend : ready.calm 4 0 ∧ ready.calm 2 0 ∧ (faulty 0).failsAt 0 nack 0 :=
  ⟨calm_of rfl rfl (by decide) (by decide), calm_of rfl rfl (by decide) (by decide), fails_at_0⟩
theorem witness_ExpanderWordsSend : ready.calm 1 0 ∧ (faulty 0).failsAt 0 nack 0 :=
  ⟨calm_of rfl rfl (by decide) (by decide), fails_at_0⟩
-- row 2 on 2 lines, column 16 on 16 columns
theorem witness_OutOfRangeIsRefused : ready.phase = .ready ∧ ¬ ready.within ⟨2, 0⟩ ∧ ¬ ready.within ⟨0, 16⟩ :=
  ⟨by decide, fun h => absurd h.1 (by decide), fun h => absurd h.2 (by decide)⟩
theorem witness_RefusalPriority : { initFailed with frames := [⟨0xD0000000, []⟩] }.onProgram ∧ initFailed.resetReq = none ∧
    initFailed.phase = .initFailed ∧ { ready with frames := [⟨0x94100000, []⟩] }.onProgram ∧ ready.resetReq = none ∧
    ready.phase = .ready ∧ illegalHeader 0x94100000 :=
  ⟨List.suffix_rfl, by decide, by decide, List.suffix_rfl, by decide, by decide, by unfold illegalHeader; decide⟩
theorem witness_FramesAreHeldBeforeReady : (inPhase .configured).phase.gate = .hold ∧ (left (step (inPhase .configured))).isSome := by
  decide
theorem witness_OneOutcomePerOperation : isFrame .clear ∧ ready.phase = .ready ∧ ready.resetReq = none ∧
    (left (exec .clear ready)).isSome := ⟨⟨_, rfl⟩, by decide, by decide, by decide⟩
-- the first run fails at its third write, the second does not fail
theorem witness_FaultedTraceIsABeginning : ready = { faulty 2 with bus := ready.bus, timer := ready.timer } ∧
    (faulty 2).faultSeen = false ∧ (faulty 2).resetReq = none ∧ after (·.faultSeen) (exec .clear (faulty 2)) = some true ∧
    after (fun t => (t.faultSeen, t.resetReq)) (exec .clear ready) = some (false, none) := by decide
-- V-INIT-5, the fault at write 15: the third of the statements left is CLEAR, and its first write fails
theorem witness_InitFaultEndsInInitFailed :
    let s : State := { inPhase .configured with bus := (faulty 0).bus, seq := (program 2 .configured).drop 2 }
    s.phase.gate = .hold ∧ s.phase ≠ .uninit ∧ s.onProgram ∧ s.resetReq = none ∧
      s.statements = .body .clear :: (program 2 .configured).drop 3 ∧
      0 < writesIn ((s.stmtWrites (.body .clear)).outStmt (.body .clear)) ∧
      s.failsAt 0 nack (delaysIn (upToWrite 0 ((s.stmtWrites (.body .clear)).outStmt (.body .clear)))) ∧
      s.faultSeen = false ∧ after (·.faultSeen) (step s) = some true :=
  ⟨by decide, by decide, ⟨(program 2 .configured).take 2, rfl⟩, by decide, by decide, by decide, ⟨⟨by decide, by decide⟩, by decide⟩,
    by decide, by decide⟩
theorem witness_InitFailedLastsUntilReset : initFailed.phase = .initFailed ∧ initFailed.onProgram ∧ initFailed.resetReq = none ∧
    initFailed.frames = [] ∧ { initFailed with frames := [⟨0, []⟩] }.onProgram :=
  ⟨by decide, List.suffix_rfl, by decide, by decide, List.suffix_rfl⟩
theorem witness_GhostBitsStay :
    let s : State := { ready with faultSeen := true, refused := true, frames := [⟨0, []⟩] }
    s.resetReq = none ∧ after (fun t => (t.faultSeen, t.refused)) (step s) = some (true, true) := by decide
theorem witness_GhostBitsDoNotSteer :
    let s : State := { ready with frames := [⟨0, []⟩] }
    let s' : State := { s with status := .fault nack, faultSeen := true, refused := true, replies := [.refused .notReady] }
    let z : Option Params := some { params6x80 with lines := 0 }
    s.unmarked = s'.unmarked ∧ (left (exec .clear s)).isSome ∧ (left (exec .clear s')).isSome ∧ (left (step s)).isSome ∧
      { s with resetReq := z }.unmarked = { s' with resetReq := z }.unmarked ∧
      left (step { s with resetReq := z }) = none := by decide
theorem witness_ResetValues : { ready with resetReq := some params6x80 }.resetReq = some params6x80 ∧ paramsValid params6x80 = true := by
  decide
theorem witness_GeometryIsClamped : { ready with resetReq := some params6x80 }.resetReq = some params6x80 ∧ 1 ≤ params6x80.lines ∧
    1 ≤ params6x80.columns ∧ { params6x80 with lines := 0 }.lines = 0 := by decide
theorem witness_ResetAbandonsTheOperation : (cutOff 2).resetReq = none ∧
    after (·.resetReq) (exec .clear (cutOff 2)) = some (some params6x80) := by decide
theorem witness_InitPhasesSend (p : Phase) : (inPhase p).seq = [] ∧ (inPhase p).resetReq = none ∧ (inPhase p).phase = p ∧
    (inPhase p).calm 2 1 ∧ (inPhase p).calm 1 1 :=
  ⟨rfl, rfl, rfl, calm_of rfl rfl (by decide) (by decide), calm_of rfl rfl (by decide) (by decide)⟩
theorem witness_ConfiguredPhaseSends : (inPhase .configured).phase = .configured ∧ (inPhase .configured).seq = [] ∧
    (inPhase .configured).resetReq = none ∧ (inPhase .configured).calm 29 2 :=
  ⟨by decide, by decide, by decide, calm_of rfl rfl (by decide) (by decide)⟩
theorem witness_InitReachesReady : paramsValid params6x80 = true ∧ ready.calm 38 7 :=
  ⟨by decide, calm_of rfl rfl (by decide) (by decide)⟩
theorem witness_PhaseTransitions : (inPhase .powerUp).onProgram ∧ (left (step (inPhase .powerUp))).isSome :=
  ⟨List.nil_suffix, by decide⟩
theorem witness_ReadyStays : ready.phase = .ready ∧ ready.readyIdle ∧ isFrame .clear ∧ (left (exec .clear ready)).isSome ∧
    (left (step ready)).isSome := ⟨by decide, ⟨by decide, by decide, by decide⟩, ⟨_, rfl⟩, by decide, by decide⟩
theorem witness_InvHoldsAfterReset : paramsValid params6x80 = true := by decide
theorem inv_ready : ready.Inv :=
  ⟨in_bounds ⟨0, 0⟩ ⟨by decide, by decide⟩, List.suffix_rfl, fun e h => absurd h (by simp [ready, State.reset]), fun h => absurd h (by decide)⟩
theorem witness_StepKeepsInv : ready.Inv ∧ (left (step ready)).isSome := ⟨inv_ready, by decide⟩
theorem witness_TraceGrowsWithPlainWrites : sent (step (inPhase .powerUp)) = some [.w 0] := by decide
theorem witness_FlagOperationsFrame : (left (exec .cursorOn ready)).isSome := by decide
theorem witness_TextOperationsFrame : (left (exec (.move true 1 5) ready)).isSome ∧ (left (exec (.putsAt 1 5 [0x58]) (faulty 5))).isSome := by
  decide
theorem witness_SendingFrame : (∀ save row col ch text, Instr.glyph 9 [1, 2, 3, 4, 5, 6, 7, 8] ∉ [Instr.clear, .cursorOn, .cursorOff,
    .blinkOn, .blinkOff, .displayOn, .displayOff, .backlightOn, .backlightOff, .move save row col, .putc ch, .puts text,
    .putsAt row col text]) ∧ (left (exec (.glyph 9 [1, 2, 3, 4, 5, 6, 7, 8]) ready)).isSome := ⟨by simp, by decide⟩
theorem witness_StepRunsTheDecodedInstruction : ready.resetReq = none ∧ ready.phase = .ready ∧ ready.seq = [] ∧
    decodesTo (decodeFrame ⟨0x00000000, []⟩) .clear ∧ (inPhase .powerUp).phase ≠ .uninit ∧
    decodesTo (decodeWord (.idleByte 0)) .expanderIdle ∧ ready.frames = [] := by decide
theorem witness_PlacedInstructionRuns : (Instr.glyph 9 [1, 2, 3, 4, 5, 6, 7, 8]).wellFormed = true ∧
    Instr.expanderIdle.wellFormed = true := by decide
theorem witness_SnapshotShowsTheRegisters : ready.resetReq = none := by decide
theorem witness_AssemblerMakesEncodableOperations : assemble (.moveS 3 63) = .ok (.move true 3 63) ∧
    255 < (List.replicate 256 0x41).length := ⟨rfl, by rw [List.length_replicate]; decide⟩
theorem synced_ready : Synced inStep ready :=
  ⟨by decide, by decide, by decide, by decide, by decide, by decide, by decide, by decide⟩
theorem witness_ReadyKeepsTheControllerInStep :
    let s : State := { ready with frames := [⟨0xA0000041, []⟩] }
    s.readyIdle ∧ s.inBounds ∧ Synced (inStep.run s.trace) s ∧
      after (fun t => (t.faultSeen, t.resetReq, t.cur)) (step s) = some (false, none, ⟨0, 1⟩) :=
  ⟨⟨by decide, by decide, by decide⟩, ⟨by decide, by decide, ⟨by decide, by decide⟩, by decide, by decide⟩, synced_ready, by decide⟩
theorem witness_InitBringsTheControllerIntoStep : paramsValid params6x80 = true ∧ ready.calm 38 7 ∧
    after (·.phase) (step (ready.resetWith params6x80)) = some .powerUp :=
  ⟨by decide, calm_of rfl rfl (by decide) (by decide), by decide⟩
theorem witness_PrintedCharacterStandsInDdram : ready.phase = .ready ∧ ready.resetReq = none ∧ Synced (inStep.run ready.trace) ready ∧
    (0x41 : Byte) ≠ NEWLINE ∧ after (fun t => (t.faultSeen, t.resetReq)) (exec (.putc 0x41) ready) = some (false, none) :=
  ⟨by decide, by decide, synced_ready, by decide, by decide⟩
theorem witness_GlyphStandsInCgram : ready.phase = .ready ∧ ready.resetReq = none ∧ Synced (inStep.run ready.trace) ready ∧
    ([1, 2, 3, 4, 5, 6, 7, 8] : List Byte).length = 8 ∧
    after (fun t => (t.faultSeen, t.resetReq)) (exec (.glyph 9 [1, 2, 3, 4, 5, 6, 7, 8]) ready) = some (false, none) :=
  ⟨by decide, by decide, synced_ready, by decide, by decide⟩
theorem witness_ControllerMemoryStaysCanonical : Memory.wf inStep.ddram = true ∧ Memory.wf inStep.cgram = true := by decide

end Sys2Proof.Tests
end

section
/-! PROOFS. The geometry a reset leaves (00_scope.md R8, R9): what the clamped registers read as, and when the reset is refused. -/

namespace Sys2Proof.Machine

variable {p : Params}

/-- The three bits of the line count hold every value up to MAX_LINES. -/
theorem clampLines_toNat (p : Params) : (clampLines p).toNat = min p.lines MAX_LINES := by
  have hfits : min p.lines MAX_LINES < 2 ^ 3 := by simp only [MAX_LINES]; omega
  exact (BitVec.toNat_ofNat _ _).trans (Nat.mod_eq_of_lt hfits)

/-- The six bits of the column count hold every value up to MAX_COLS. -/
theorem clampColumns_toNat (p : Params) : (clampColumns p).toNat = min p.columns MAX_COLS := by
  have hfits : min p.columns MAX_COLS < 2 ^ 6 := by simp only [MAX_COLS]; omega
  exact (BitVec.toNat_ofNat _ _).trans (Nat.mod_eq_of_lt hfits)

theorem paramsValid_iff : paramsValid p = true ↔ 1 ≤ p.lines ∧ 1 ≤ p.columns := by
  simp [paramsValid]

theorem assertReset_of_valid (h : paramsValid p = true) (s : State) : assertReset p s = .next (load p s) :=
  if_pos h

theorem assertReset_of_not_valid (h : ¬ paramsValid p = true) (s : State) : assertReset p s = .refused .zeroGeometry :=
  if_neg h

/-- Settles O39: the step is the asserted reset, which loads the clamped counts when both requests are at least 1 and is refused
when one of them is 0. -/
theorem geometryIsClamped : Obligations.GeometryIsClamped := by
  intro s p hreq
  rw [step_reset hreq]
  constructor
  · intro hlines hcolumns
    exact ⟨load p s, assertReset_of_valid (paramsValid_iff.mpr ⟨hlines, hcolumns⟩) s, clampLines_toNat p, clampColumns_toNat p⟩
  · intro hzero
    have hinvalid : ¬ paramsValid p = true := by rw [paramsValid_iff]; omega
    exact assertReset_of_not_valid hinvalid s

end Sys2Proof.Machine
end

section
/-! PROOFS. What a run and its end keep: the registers that no statement of a body writes, and what is left of them when the run
has been completed, finished or cut off. -/

namespace Sys2Proof.Machine

variable {s t u : State}

/-! What a run keeps. -/

theorem ranTo_numLines (h : s.ranTo t) : t.numLines = s.numLines := by obtain ⟨outs, -, ht⟩ := h; rw [ht]; rfl
theorem ranTo_numColumns (h : s.ranTo t) : t.numColumns = s.numColumns := by obtain ⟨outs, -, ht⟩ := h; rw [ht]; rfl
theorem ranTo_i2cAddr (h : s.ranTo t) : t.i2cAddr = s.i2cAddr := by obtain ⟨outs, -, ht⟩ := h; rw [ht]; rfl
theorem ranTo_phase (h : s.ranTo t) : t.phase = s.phase := by obtain ⟨outs, -, ht⟩ := h; rw [ht]; rfl
theorem ranTo_status (h : s.ranTo t) : t.status = s.status := by obtain ⟨outs, -, ht⟩ := h; rw [ht]; rfl
theorem ranTo_faultSeen (h : s.ranTo t) : t.faultSeen = s.faultSeen := by obtain ⟨outs, -, ht⟩ := h; rw [ht]; rfl
theorem ranTo_refused (h : s.ranTo t) : t.refused = s.refused := by obtain ⟨outs, -, ht⟩ := h; rw [ht]; rfl
theorem ranTo_seq (h : s.ranTo t) : t.seq = s.seq := by obtain ⟨outs, -, ht⟩ := h; rw [ht]; rfl
theorem ranTo_frames (h : s.ranTo t) : t.frames = s.frames := by obtain ⟨outs, -, ht⟩ := h; rw [ht]; rfl
theorem ranTo_resetReq (h : s.ranTo t) : t.resetReq = s.resetReq := by obtain ⟨outs, -, ht⟩ := h; rw [ht]; rfl
theorem ranTo_replies (h : s.ranTo t) : t.replies = s.replies := by obtain ⟨outs, -, ht⟩ := h; rw [ht]; rfl

/-- The trace and the ports move on together. -/
theorem ranTo_outs (h : s.ranTo t) :
    ∃ outs : List Out, t.trace = s.trace ++ outs.map (Out.event s.i2cAddr) ∧ t.bus = s.bus.advance (writesIn outs) ∧
      t.timer = s.timer.advance (delaysIn outs) := by
  obtain ⟨outs, -, ht⟩ := h
  exact ⟨outs, by rw [ht]; rfl, by rw [ht]; rfl, by rw [ht]; rfl⟩

theorem delay_eq (ms : Nat) (s : State) : delay ms s = emit [.d ms] s := (Run.andThen_done _).symm

theorem ranTo_delay (ms : Nat) (s : State) : s.ranTo (delay ms s).state := by
  rw [delay_eq]
  exact ranTo_emit s (by simp [allPlain, Out.plain])

/-! What the end of a run keeps. -/

/-- `t` is `u` but for what the end of a run or a refusal writes: status, marks, phase, sequence, replies and a reset request. -/
structure State.EndsAs (u t : State) : Prop where
  numLines   : t.numLines = u.numLines
  numColumns : t.numColumns = u.numColumns
  i2cAddr    : t.i2cAddr = u.i2cAddr
  cur        : t.cur = u.cur
  saved      : t.saved = u.saved
  backlight  : t.backlight = u.backlight
  display    : t.display = u.display
  cursor     : t.cursor = u.cursor
  blink      : t.blink = u.blink
  frames     : t.frames = u.frames
  bus        : t.bus = u.bus
  timer      : t.timer = u.timer
  trace      : t.trace = u.trace

theorem endsAs_refl (s : State) : s.EndsAs s := by constructor <;> rfl

theorem endsAs_refuse (s : State) (r : Reason) : s.EndsAs (s.refuse r) := by constructor <;> rfl

theorem endsAs_completed (r : Run) : r.state.EndsAs r.completed := by
  cases r <;> constructor <;> rfl

theorem endsAs_finished (r : Run) : r.state.EndsAs r.finished := by
  cases r <;> constructor <;> rfl

/-- An operation frame leaves the registers as they were, or, in READY and in range, as its body left them. -/
theorem execute_endsAs {inR : State → Bool} {body : State → Run} (h : execute inR body s = .next t) :
    s.EndsAs t ∨ (inR s = true ∧ (body s).state.EndsAs t) := by
  rcases execute_cases inR body s with ⟨-, he⟩ | ⟨-, he⟩ | ⟨-, -, he⟩ | ⟨-, hr, he⟩ <;> rw [he] at h <;> cases h
  · exact .inl (endsAs_refl s)
  · exact .inl (endsAs_refuse s _)
  · exact .inl (endsAs_refuse s _)
  · exact .inr ⟨hr, endsAs_completed _⟩

/-- A frame that is no operation is held or refused. -/
theorem executeIllegal_cases (s : State) : executeIllegal s = .next s ∨ ∃ r, executeIllegal s = .next (s.refuse r) := by
  unfold executeIllegal
  split
  · exact .inl rfl
  · exact .inr ⟨_, rfl⟩
  · exact .inr ⟨_, rfl⟩

theorem executeIllegal_endsAs (h : executeIllegal s = .next t) : s.EndsAs t := by
  rcases executeIllegal_cases s with he | ⟨r, he⟩ <;> rw [he] at h <;> cases h
  · exact endsAs_refl s
  · exact endsAs_refuse s r

/-- A word of Parts B and C leaves the registers as they were, after some outputs. -/
theorem word_endsAs {i : Instr} (hi : ¬ isFrame i) (h : exec i s = .next t) : ∃ outs, (s.emitted outs).EndsAs t := by
  rcases exec_cases i s with ⟨hf, -⟩ | ⟨-, outs, -, he⟩
  · exact absurd hf hi
  · rw [he] at h
    cases h
    obtain ⟨pre, -, hp⟩ := emit_state outs s
    exact ⟨pre, hp ▸ endsAs_finished _⟩

/-! A completed operation differs from a finished statement in the status and the replies only. -/

theorem completed_phase (r : Run) : r.completed.phase = r.finished.phase := by cases r <;> rfl
theorem completed_faultSeen (r : Run) : r.completed.faultSeen = r.finished.faultSeen := by cases r <;> rfl
theorem completed_refused (r : Run) : r.completed.refused = r.finished.refused := by cases r <;> rfl

theorem finished_phase_ready {r : Run} (h : r.state.phase = .ready) : r.finished.phase = .ready := by
  cases r with
  | done u => exact h
  | raised e u => exact (congrArg Phase.afterFault h).trans afterFault_ready
  | cut p u => exact h

theorem completed_phase_ready {r : Run} (h : r.state.phase = .ready) : r.completed.phase = .ready :=
  (completed_phase r).trans (finished_phase_ready h)

/-! The frame on the port. -/

/-- What the fetch makes of a frame: the instruction it decodes to, a refusal, a hold, or no frame at all. -/
theorem fetchFrame_cases (f : Frame) (s : State) :
    (∃ i, decodeFrame f = .ok i ∧ fetchFrame f s = .run i s) ∨ (∃ r, fetchFrame f s = .settled (.next (s.refuse r))) ∨
    fetchFrame f s = .settled (.next s) ∨ fetchFrame f s = .settled (.refused .payloadLength) := by
  unfold fetchFrame
  split
  · exact .inr (.inl ⟨_, rfl⟩)
  split
  · exact .inl ⟨_, by assumption, rfl⟩
  · exact .inr (.inr (.inr rfl))
  · rcases executeIllegal_cases s with h | ⟨r, h⟩
    · exact .inr (.inr (.inl (congrArg Fetched.settled h)))
    · exact .inr (.inl ⟨r, congrArg Fetched.settled h⟩)

end Sys2Proof.Machine
end

section
/-! PROOFS. The bounds invariant (10_state.md R23): every body, however it ends, keeps both positions within the geometry. -/

namespace Sys2Proof.Machine

variable {s t : State} {p : Pos}

/-- The bounds speak of the geometry and the positions only. -/
theorem inBounds_congr (hl : t.numLines = s.numLines) (hc : t.numColumns = s.numColumns) (hcur : t.cur = s.cur)
    (hsaved : t.saved = s.saved) (h : s.inBounds) : t.inBounds := by
  unfold State.inBounds State.within at h ⊢
  rwa [hl, hc, hcur, hsaved]

theorem inBounds_endsAs_iff (he : s.EndsAs t) : t.inBounds ↔ s.inBounds :=
  ⟨inBounds_congr he.numLines.symm he.numColumns.symm he.cur.symm he.saved.symm,
    inBounds_congr he.numLines he.numColumns he.cur he.saved⟩

/-! Positions. -/

theorem inBounds_setCur (h : s.inBounds) (hp : s.within p) : (s.setCur p).inBounds := by
  obtain ⟨hl, hc, -, hsaved⟩ := h
  exact ⟨hl, hc, hp, hsaved⟩

theorem inBounds_saveAndMove (h : s.inBounds) (hp : s.within p) : (saveAndMove p s).inBounds := by
  obtain ⟨hl, hc, hcur, -⟩ := h
  exact ⟨hl, hc, hp, hcur⟩

theorem inBounds_restore (h : s.inBounds) : (restore s).inBounds := by
  obtain ⟨-, -, -, hsaved⟩ := id h
  exact inBounds_setCur h hsaved

/-- A geometry that holds the cursor has a home position. -/
theorem within_home (h : s.inBounds) : s.within homePos := by
  obtain ⟨-, -, ⟨hrow, hcol⟩, -⟩ := h
  exact ⟨Nat.zero_lt_of_lt hrow, Nat.zero_lt_of_lt hcol⟩

theorem inRange_iff {row : BitVec 2} {col : BitVec 6} : inRange row col s = true ↔ s.within ⟨row, col⟩ := by
  simp [inRange, State.within]

/-- The row after the last line is row 0, any other one more. -/
theorem nextRow_lt {n : BitVec 3} {r : BitVec 2} (hn : n.toNat ≤ MAX_LINES) (hr : r.toNat < n.toNat) :
    (nextRow n r).toNat < n.toNat := by
  simp only [MAX_LINES] at hn
  unfold nextRow
  split
  · simp only [BitVec.ofNat_eq_ofNat, BitVec.toNat_ofNat]
    omega
  · simp only [BitVec.toNat_ofNat]
    omega

/-- A character moves the cursor to a position within the geometry. -/
theorem within_posAfter (h : s.inBounds) (ch : Byte) : s.within (s.posAfter ch) := by
  obtain ⟨hl, hc, ⟨hrow, hcol⟩, -⟩ := h
  simp only [MAX_COLS] at hc
  unfold State.posAfter
  split
  · exact ⟨nextRow_lt hl hrow, Nat.zero_lt_of_lt hcol⟩
  · rename_i hlast
    have hne : s.cur.col.toNat + 1 ≠ s.numColumns.toNat := fun he => hlast (.inr (by simp [atLastColumn, he]))
    refine ⟨hrow, ?_⟩
    simp only [BitVec.toNat_ofNat]
    omega

/-! Runs. -/

theorem inBounds_emitted (outs : List Out) (h : s.inBounds) : (s.emitted outs).inBounds := h

theorem inBounds_emit (outs : List Out) (h : s.inBounds) : (emit outs s).state.inBounds := by
  obtain ⟨pre, -, he⟩ := emit_state outs s
  exact he ▸ inBounds_emitted pre h

theorem inBounds_andThen {r : Run} {k : State → Run} (hr : r.state.inBounds)
    (hk : ∀ t, r = .done t → t.inBounds → (k t).state.inBounds) : (r.andThen k).state.inBounds := by
  cases r with
  | done t => exact hk t rfl hr
  | raised e t => exact hr
  | cut q t => exact hr

theorem inBounds_bodyClear (h : s.inBounds) : (bodyClear s).state.inBounds := by
  rw [bodyClear_eq]
  exact inBounds_andThen (inBounds_emit _ h) fun t _ ht => inBounds_setCur ht (within_home ht)

theorem inBounds_bodyCursor (v : Bool) (h : s.inBounds) : (bodyCursor v s).state.inBounds := by
  rw [bodyCursor_eq]
  exact inBounds_emit (s := s.setCursor v) _ h

theorem inBounds_bodyBlink (v : Bool) (h : s.inBounds) : (bodyBlink v s).state.inBounds := by
  rw [bodyBlink_eq]
  exact inBounds_emit (s := s.setBlink v) _ h

theorem inBounds_bodyDisplay (v : Bool) (h : s.inBounds) : (bodyDisplay v s).state.inBounds := by
  rw [bodyDisplay_eq]
  exact inBounds_emit (s := s.setDisplay v) _ h

theorem inBounds_bodyBacklight (v : Bool) (h : s.inBounds) : (bodyBacklight v s).state.inBounds := by
  rw [bodyBacklight_eq]
  exact inBounds_emit (s := s.setBacklight v) _ h

theorem inBounds_bodyMove (save : Bool) (h : s.inBounds) (hp : s.within p) : (bodyMove save p s).state.inBounds := by
  rw [bodyMove_eq]
  cases save
  · exact inBounds_emit _ (inBounds_setCur h hp)
  · exact inBounds_emit _ (inBounds_saveAndMove h hp)

theorem inBounds_bodyPutc (ch : Byte) (h : s.inBounds) : (bodyPutc ch s).state.inBounds := by
  rw [bodyPutc_eq]
  refine inBounds_andThen (inBounds_emit _ h) fun t ht hb => inBounds_emit _ (inBounds_setCur hb ?_)
  rw [(emit_done ht).1]
  exact within_posAfter h ch

theorem inBounds_bodyPuts (text : List Byte) (h : s.inBounds) : (bodyPuts text s).state.inBounds := by
  induction text generalizing s with
  | nil => exact h
  | cons ch rest ih =>
    rw [bodyPuts_cons]
    exact inBounds_andThen (inBounds_bodyPutc ch h) fun t _ ht => ih ht

theorem inBounds_bodyPutsAt (text : List Byte) (h : s.inBounds) (hp : s.within p) : (bodyPutsAt p text s).state.inBounds := by
  rw [bodyPutsAt_eq]
  refine inBounds_andThen (inBounds_emit _ (inBounds_saveAndMove h hp)) fun t _ ht => ?_
  exact inBounds_andThen (inBounds_bodyPuts text ht) fun u _ hu => inBounds_emit _ (inBounds_restore hu)

theorem inBounds_bodyGlyph (slot8 : Byte) (bitmap : List Byte) (h : s.inBounds) : (bodyGlyph slot8 bitmap s).state.inBounds := by
  rw [bodyGlyph_eq]
  exact inBounds_emit _ h

theorem inBounds_initBody (b : InitBody) (h : s.inBounds) : (initBody b s).state.inBounds := by
  cases b
  · exact inBounds_bodyDisplay false h
  · exact inBounds_bodyBacklight true h
  · exact inBounds_bodyClear h
  · exact inBounds_bodyCursor false h
  · exact inBounds_bodyDisplay true h

/-! exec. -/

theorem inBounds_execute {inR : State → Bool} {body : State → Run} (h : s.inBounds)
    (hb : inR s = true → (body s).state.inBounds) (he : execute inR body s = .next t) : t.inBounds := by
  rcases execute_endsAs he with hs | ⟨hr, hs⟩
  · exact (inBounds_endsAs_iff hs).mpr h
  · exact (inBounds_endsAs_iff hs).mpr (hb hr)

/-- Every instruction keeps the bounds, however it ends. -/
theorem inBounds_exec {i : Instr} (h : s.inBounds) (he : exec i s = .next t) : t.inBounds := by
  cases i with
  | clear => exact inBounds_execute h (fun _ => inBounds_bodyClear h) he
  | cursorOn => exact inBounds_execute h (fun _ => inBounds_bodyCursor true h) he
  | cursorOff => exact inBounds_execute h (fun _ => inBounds_bodyCursor false h) he
  | blinkOn => exact inBounds_execute h (fun _ => inBounds_bodyBlink true h) he
  | blinkOff => exact inBounds_execute h (fun _ => inBounds_bodyBlink false h) he
  | displayOn => exact inBounds_execute h (fun _ => inBounds_bodyDisplay true h) he
  | displayOff => exact inBounds_execute h (fun _ => inBounds_bodyDisplay false h) he
  | backlightOn => exact inBounds_execute h (fun _ => inBounds_bodyBacklight true h) he
  | backlightOff => exact inBounds_execute h (fun _ => inBounds_bodyBacklight false h) he
  | move save row col => exact inBounds_execute h (fun hr => inBounds_bodyMove save h (inRange_iff.mp hr)) he
  | putc ch => exact inBounds_execute h (fun _ => inBounds_bodyPutc ch h) he
  | puts text => exact inBounds_execute h (fun _ => inBounds_bodyPuts text h) he
  | putsAt row col text => exact inBounds_execute h (fun hr => inBounds_bodyPutsAt text h (inRange_iff.mp hr)) he
  | glyph slot8 bitmap => exact inBounds_execute h (fun _ => inBounds_bodyGlyph slot8 bitmap h) he
  | reservedD rest => exact (inBounds_endsAs_iff (executeIllegal_endsAs he)).mpr h
  | reservedE rest => exact (inBounds_endsAs_iff (executeIllegal_endsAs he)).mpr h
  | reservedF rest => exact (inBounds_endsAs_iff (executeIllegal_endsAs he)).mpr h
  | _ =>
    obtain ⟨outs, ht⟩ := word_endsAs (by rintro ⟨f, ⟨⟩⟩) he
    exact (inBounds_endsAs_iff ht).mpr (inBounds_emitted outs h)

end Sys2Proof.Machine
end

section
/-! PROOFS. The invariant (10_state.md R23, R28; 70_reset_and_hazards.md R156) holds after every reset, and every step keeps it. -/

namespace Sys2Proof.Machine

variable {s t u : State} {r : Run}

/-! What a body leaves, and the end of a run. -/

theorem inv_ranTo (h : s.Inv) (hr : s.ranTo t) (hb : t.inBounds) : t.Inv := by
  obtain ⟨-, hprogram, hfault, hfailed⟩ := h
  refine ⟨hb, ?_, ?_, ?_⟩
  · rw [State.onProgram, ranTo_seq hr, ranTo_numLines hr, ranTo_phase hr]
    exact hprogram
  · rwa [ranTo_status hr, ranTo_faultSeen hr]
  · rwa [ranTo_phase hr, ranTo_status hr]

theorem inv_takeFault (e : BusFault) (h : s.inBounds) : (takeFault e s).Inv :=
  ⟨h, List.nil_suffix, fun _ _ => rfl, fun _ => ⟨e, rfl⟩⟩

theorem inv_finished (h : r.state.Inv) : r.finished.Inv := by
  cases r with
  | done u => exact h
  | raised e u => exact inv_takeFault e h.1
  | cut p u => exact h

/-- The status of a completed operation is no fault, so it must not stand in INIT_FAILED. -/
theorem inv_completed (h : r.state.Inv) (hp : r.state.phase ≠ .initFailed) : r.completed.Inv := by
  cases r with
  | done u =>
    obtain ⟨hbounds, hprogram, -⟩ := h
    exact ⟨hbounds, hprogram, nofun, fun hf => absurd hf hp⟩
  | raised e u => exact inv_takeFault e h.1
  | cut p u => exact h

/-! Steps. -/

/-- Every instruction keeps the invariant, in any phase and however it ends. -/
theorem inv_exec {i : Instr} (h : s.Inv) (he : exec i s = .next t) : t.Inv := by
  have hb : t.inBounds := inBounds_exec h.1 he
  rcases exec_cases i s with ⟨-, ⟨-, h'⟩ | ⟨-, r, h'⟩ | ⟨hready, r, hr, h'⟩⟩ | ⟨-, outs, hplain, h'⟩ <;>
    rw [h'] at he <;> cases he
  · exact h
  · exact h
  · have hb' : r.state.inBounds := (inBounds_endsAs_iff (endsAs_completed r)).mp hb
    exact inv_completed (inv_ranTo h hr hb') (by rw [ranTo_phase hr, hready]; decide)
  · exact inv_finished (inv_ranTo h (ranTo_emit s hplain) (inBounds_emit outs h.1))

/-- A phase is entered by the last statement of the phase before it, and it is never INIT_FAILED. -/
theorem enter_on_program {n : BitVec 3} {q p : Phase} {rest : List Stmt} (h : .enter p :: rest <:+ program n q) :
    rest = [] ∧ p ≠ .initFailed := by
  cases q <;> simp [program, modeReset, List.suffix_cons_iff] at h <;> simp [h]

theorem inv_fetchStmt {st : Stmt} {rest : List Stmt} (h : s.Inv) (hs : st :: rest <:+ program s.numLines s.phase)
    (he : (fetchStmt st (s.setSeq rest)).outcome = .next t) : t.Inv := by
  obtain ⟨hbounds, -, hmarked⟩ := h
  have hrest : (s.setSeq rest).Inv := ⟨hbounds, (List.suffix_cons st rest).trans hs, hmarked⟩
  cases st with
  | send w =>
    simp only [fetchStmt] at he
    split at he
    · exact inv_exec hrest he
    · cases he
  | wait ms =>
    cases he
    refine inv_finished (inv_ranTo hrest (ranTo_delay ms _) ?_)
    rw [delay_eq]
    exact inBounds_emit _ hbounds
  | body b =>
    cases he
    exact inv_finished (inv_ranTo hrest (ranTo_initBody b _) (inBounds_initBody b hbounds))
  | enter p =>
    cases he
    obtain ⟨rfl, hp⟩ := enter_on_program hs
    obtain ⟨hfault, -⟩ := hmarked
    exact ⟨hbounds, List.nil_suffix, hfault, fun hf => absurd hf hp⟩

theorem inv_fetchFrame {f : Frame} (h : s.Inv) (he : (fetchFrame f s).outcome = .next t) : t.Inv := by
  rcases fetchFrame_cases f s with ⟨i, -, hf⟩ | ⟨r, hf⟩ | hf | hf <;> rw [hf] at he
  · exact inv_exec h he
  · cases he
    exact h
  · cases he
    exact h
  · cases he

/-- In UNINIT there is nothing of the sequence left, so the first phase begins with all of it. -/
theorem inv_release (h : s.Inv) (hp : s.phase = .uninit) : (release s).Inv := by
  obtain ⟨hbounds, hprogram, hfault, -⟩ := h
  have hseq : s.seq = [] := by simpa [State.onProgram, hp, program] using hprogram
  refine ⟨hbounds, ?_, hfault, nofun⟩
  rw [State.onProgram, release_seq, hseq]
  exact List.nil_suffix

/-- The clamped geometry holds the home position (00_scope.md R9). -/
theorem inv_load {p : Params} (h : paramsValid p = true) (s : State) : (load p s).Inv := by
  obtain ⟨hlines, hcolumns⟩ : 0 < p.lines ∧ 0 < p.columns := paramsValid_iff.mp h
  have hhome : (load p s).within homePos := by
    constructor
    · simpa [homePos, clampLines_toNat, MAX_LINES] using hlines
    · simpa [homePos, clampColumns_toNat, MAX_COLS] using hcolumns
  refine ⟨⟨?_, ?_, hhome, hhome⟩, List.nil_suffix, nofun, nofun⟩
  · simp [clampLines_toNat]
  · simp [clampColumns_toNat]

/-- Settles O46: a reset leaves the cursor home in the clamped geometry, nothing of a sequence and no mark, and the release only
enters POWERUP. -/
theorem invHoldsAfterReset : Obligations.InvHoldsAfterReset := by
  have hload : ∀ (s : State) (p : Params), paramsValid p = true → (load p s).Inv ∧ (s.resetWith p).Inv := fun s p hp =>
    ⟨inv_load hp s, inv_release (inv_load hp s) rfl⟩
  refine ⟨?_, hload⟩
  rw [reset_eq_released]
  exact (hload State.reset Config.params (by decide)).2

/-- Settles O47, along the cases of the step: a reset loads a state of its own, the release and every statement go along the
program, and an instruction keeps the invariant. -/
theorem stepKeepsInv : Obligations.StepKeepsInv := by
  intro s t h he
  rcases step_cases s with ⟨p, -, hs⟩ | ⟨-, hp, hs⟩ | ⟨st, rest, -, -, hst, hs⟩ | ⟨f, rest, -, -, -, -, hs⟩ | ⟨-, -, -, -, hs⟩ <;>
    rw [hs] at he
  · by_cases hp : paramsValid p = true
    · rw [assertReset_of_valid hp] at he
      cases he
      exact inv_load hp s
    · rw [assertReset_of_not_valid hp] at he
      cases he
  · cases he
    exact inv_release h hp
  · obtain ⟨-, hprogram, -⟩ := id h
    exact inv_fetchStmt h (hst ▸ statements_suffix hprogram) he
  · exact inv_fetchFrame (s := s.setFrames rest) h he
  · cases he
    exact h

end Sys2Proof.Machine
end

section
/-! PROOFS. The decoder on what the encoder writes (30_encoding.md R55 to R75), and the kinds of instruction a frame can hold. -/

namespace Sys2Proof

open Machine

/-! Words. -/

theorem decodeCommand_encDisplayControl :
    ∀ d c b, decodeCommand (encDisplayControl d c b) = .ok (.cmdDisplayControl d c b) := by decide

theorem decodeCommand_functionSetByte : ∀ n, decodeCommand (functionSetByte n) = .ok (.cmdFunctionSet n) := by decide

theorem decodeCommand_encCgram : ∀ slot : BitVec 3, decodeCommand (encCgram slot.toNat) = .ok (.cmdCgramAddr slot) := by decide

theorem decodeCommand_encDdram : ∀ a, decodeCommand (encDdram a) = .ok (.cmdDdramAddr a) := by decide

theorem decodeWord_expanderBits : ∀ n bl e rs,
    decodeWord (.nibbleByte (expanderBits n bl e rs)) = .ok (.expanderNibbleByte n bl e rs) := by decide

theorem decodeWord_backlightBits : ∀ bl, decodeWord (.backlightByte (backlightBits bl)) = .ok (.expanderBacklight bl) := by decide

/-! Frames. -/

/-- A header whose unused fields are 0 passes the checks with a payload of the fixed length. -/
theorem checkedFrame_header {u : FieldUse} {n : Nat} {opc : BitVec 4} {f : Bool} {row : BitVec 2} {col : BitVec 6} {len low : Byte}
    {payload : List Byte} {i : Instr} (hu : unusedZero u (header opc f row col len low) = true) (hn : payload.length = n) :
    checkedFrame u n ⟨header opc f row col len low, payload⟩ i = .ok i :=
  checkedFrame_ok_iff.mpr ⟨⟨hdrRsv1_header .., hdrRsv2_header ..⟩, hu, hn, rfl⟩

theorem decodeFrame_move (save : Bool) (row : BitVec 2) (col : BitVec 6) :
    decodeFrame ⟨header 0x9 save row col 0 0, []⟩ = .ok (.move save row col) := by
  simp only [decodeFrame, hdrOpc_header, hdrF_header, hdrRow_header, hdrCol_header]
  exact checkedFrame_header (by simp [unusedZero, moveUse]) rfl

theorem decodeFrame_putc (ch : Byte) : decodeFrame ⟨header 0xA false 0 0 0 ch, []⟩ = .ok (.putc ch) := by
  simp only [decodeFrame, hdrOpc_header, hdrLow_header]
  exact checkedFrame_header (by simp [unusedZero]) rfl

theorem decodeFrame_puts {text : List Byte} (h : text.length ≤ 255) :
    decodeFrame ⟨header 0xB false 0 0 (BitVec.ofNat 8 text.length) 0, text⟩ = .ok (.puts text) := by
  simp only [decodeFrame, hdrOpc_header, hdrF_header, hdrLen_header]
  exact checkedFrame_header (by simp [unusedZero]) (lenField_toNat h).symm

theorem decodeFrame_putsAt (row : BitVec 2) (col : BitVec 6) {text : List Byte} (h : text.length ≤ 255) :
    decodeFrame ⟨header 0xB true row col (BitVec.ofNat 8 text.length) 0, text⟩ = .ok (.putsAt row col text) := by
  simp only [decodeFrame, hdrOpc_header, hdrF_header, hdrRow_header, hdrCol_header, hdrLen_header]
  exact checkedFrame_header (by simp [unusedZero, putsAtUse]) (lenField_toNat h).symm

theorem decodeFrame_glyph (slot8 : Byte) {bitmap : List Byte} (h : bitmap.length = 8) :
    decodeFrame ⟨header 0xC false 0 0 0 slot8, bitmap⟩ = .ok (.glyph slot8 bitmap) := by
  simp only [decodeFrame, hdrOpc_header, hdrLow_header]
  exact checkedFrame_header (by simp [unusedZero]) h

theorem decodeFrame_reserved (rest : BitVec 28) :
    decodeFrame ⟨0xD#4 ++ rest, []⟩ = .ok (.reservedD rest) ∧ decodeFrame ⟨0xE#4 ++ rest, []⟩ = .ok (.reservedE rest) ∧
    decodeFrame ⟨0xF#4 ++ rest, []⟩ = .ok (.reservedF rest) := by
  simp [decodeFrame]

/-- Every instruction that has an encoding is read back from it. -/
theorem decode_encode {i : Instr} (h : i.wellFormed = true) : decode (encode i) = .ok i := by
  cases i with
  | move save row col => exact decodeFrame_move save row col
  | putc ch => exact decodeFrame_putc ch
  | puts text => exact decodeFrame_puts (of_decide_eq_true h)
  | putsAt row col text => exact decodeFrame_putsAt row col (of_decide_eq_true h)
  | glyph slot8 bitmap => exact decodeFrame_glyph slot8 (of_decide_eq_true h)
  | reservedD rest => exact (decodeFrame_reserved rest).1
  | reservedE rest => exact (decodeFrame_reserved rest).2.1
  | reservedF rest => exact (decodeFrame_reserved rest).2.2
  | cmdDisplayControl d c b => exact decodeCommand_encDisplayControl d c b
  | cmdFunctionSet n => exact decodeCommand_functionSetByte n
  | cmdCgramAddr slot => exact decodeCommand_encCgram slot
  | cmdDdramAddr addr => exact decodeCommand_encDdram addr
  | expanderNibbleByte nibble bl e rs => exact decodeWord_expanderBits nibble bl e rs
  | expanderBacklight bl => exact decodeWord_backlightBits bl
  | _ => rfl

/-! What a frame decodes to. -/

theorem eq_of_checkedFrame {u : FieldUse} {n : Nat} {f : Frame} {i j : Instr} (h : checkedFrame u n f i = .ok j) : i = j := by
  obtain ⟨-, -, -, hij⟩ := checkedFrame_ok_iff.mp h
  exact hij

/-- A frame is read as an operation or a reserved opcode, never as a word of Parts B and C. -/
theorem isFrame_of_decodeFrame {f : Frame} {i : Instr} (h : decodeFrame f = .ok i) : isFrame i := by
  have checked : ∀ {u n j g}, encode j = .frame g → checkedFrame u n f j = .ok i → isFrame i := fun hj hc =>
    eq_of_checkedFrame hc ▸ ⟨_, hj⟩
  unfold decodeFrame at h
  split at h
  case h_12 => -- PUTS, by its F flag
    split at h
    · exact checked rfl h
    · exact checked rfl h
  case h_14 | h_15 | h_16 => -- the reserved opcodes
    cases h
    exact ⟨_, rfl⟩
  all_goals exact checked rfl h

end Sys2Proof
end

section
/-! PROOFS. Single steps (10_state.md R33, R34, R37): the reset and its release, the instruction a step runs, and the snapshot. -/

namespace Sys2Proof.Machine

variable {s t : State}

/-- What stands in the sequence comes before the program of the phase. -/
theorem statements_of_seq {st : Stmt} {rest : List Stmt} (h : s.seq = st :: rest) : s.statements = st :: rest := by
  simp [State.statements, h]

theorem step_ready_frame {f : Frame} {rest : List Frame} {i : Instr} (hr : s.resetReq = none) (hp : s.phase = .ready)
    (hs : s.seq = []) (hf : s.frames = f :: rest) (hd : decodeFrame f = .ok i) : step s = exec i (s.setFrames rest) := by
  have huninit : s.phase ≠ .uninit := by simp [hp]
  have hfailed : (s.setFrames rest).phase ≠ .initFailed := by simp [hp]
  rw [step_frame hr huninit (statements_nil (.inl hp) hs) hf, fetchFrame_ok hfailed hd]
  rfl

theorem step_word {w : BusWord} {rest : List Stmt} {i : Instr} (hr : s.resetReq = none) (hp : s.phase ≠ .uninit)
    (hs : s.seq = .send w :: rest) (hd : decodeWord w = .ok i) : step s = exec i (s.setSeq rest) := by
  rw [step_stmt hr hp (statements_of_seq hs), fetchStmt_send hd]
  rfl

/-- Settles O38: the step loads the reset values, and the next one is the release. -/
theorem resetValues : Obligations.ResetValues := by
  intro s p hr hp
  refine ⟨load p s, ?_, rfl, rfl, rfl, rfl, rfl, rfl, rfl, rfl, rfl, rfl, rfl, rfl, rfl, rfl, rfl, rfl, rfl, rfl, rfl, rfl, ?_⟩
  · rw [step_reset hr, assertReset_of_valid hp]
  · exact step_release (load_resetReq s p) (load_phase s p)

/-- Settles O52, one rule of the step for each of its three cases. -/
theorem stepRunsTheDecodedInstruction : Obligations.StepRunsTheDecodedInstruction := by
  intro s i hr
  refine ⟨fun f rest hp hs hf hd => step_ready_frame hr hp hs hf hd, fun w rest hp hs hd => step_word hr hp hs hd, ?_⟩
  intro hp hs hf
  exact step_idle hr (by simp [hp]) (statements_nil (.inl hp) hs) hf

/-- Settles O53: the step takes the placed frame or word, which decodes to the instruction it encodes. -/
theorem placedInstructionRuns : Obligations.PlacedInstructionRuns := by
  intro i s hwf
  have hd := decode_encode hwf
  cases hc : encode i with
  | frame f =>
    rw [hc] at hd
    exact ⟨(s.place (.frame f)).setFrames s.frames, step_ready_frame rfl rfl rfl rfl hd, rfl, rfl, rfl, rfl⟩
  | word w =>
    rw [hc] at hd
    have hp : (s.place (.word w)).phase ≠ .uninit := by
      by_cases h : s.phase = .uninit <;> simp [State.place, h]
    exact ⟨(s.place (.word w)).setSeq s.seq, step_word rfl hp rfl hd, rfl, rfl, rfl, rfl⟩

/-- FLAGS[3:0] = backlight, display, cursor, blink (10_state.md R26). -/
theorem flags_bits (s : State) : s.flags.getLsbD 3 = s.backlight ∧ s.flags.getLsbD 2 = s.display ∧
    s.flags.getLsbD 1 = s.cursor ∧ s.flags.getLsbD 0 = s.blink := by
  unfold State.flags
  cases s.backlight <;> cases s.display <;> cases s.cursor <;> cases s.blink <;> decide

/-- The numbers of the phases (10_state.md R27). -/
theorem phase_code_table (p : Phase) :
    (p, p.code) ∈ [(Phase.uninit, 0#4), (.powerUp, 1), (.modeReset1, 2), (.modeReset2, 3), (.modeReset3, 4), (.fourBit, 5),
      (.configured, 6), (.ready, 7), (.initFailed, 8)] := by
  cases p <;> decide

/-- Settles O54: with no reset pending the snapshot reads the registers, with the bits of FLAGS and the number of the phase. -/
theorem snapshotShowsTheRegisters : Obligations.SnapshotShowsTheRegisters := by
  intro s hr
  refine ⟨⟨s.cur, s.saved, s.flags, s.phase.code, s.status, s.numLines, s.numColumns⟩, ?_, rfl, rfl, rfl, phase_code_table s.phase,
    rfl, rfl, flags_bits s⟩
  simp [State.snapshot, hr]

end Sys2Proof.Machine
end

section
/-! PROOFS. What every instruction keeps, however it ends (10_state.md R24, R28, R36): the ghost bits, the phase READY and the
configuration; and what each flag operation leaves of the registers. -/

namespace Sys2Proof.Machine

variable {s t u : State} {r : Run}

/-! The ghost bits. -/

/-- Each ghost bit that is set in `s` is set in `t` (10_state.md R28). -/
def State.keepsMarks (s t : State) : Prop := (s.faultSeen = true → t.faultSeen = true) ∧ (s.refused = true → t.refused = true)

theorem keepsMarks_refl (s : State) : s.keepsMarks s := ⟨id, id⟩

theorem keepsMarks_refuse (s : State) (r : Reason) : s.keepsMarks (s.refuse r) := ⟨id, fun _ => rfl⟩

theorem keepsMarks_finished (h : s.ranTo r.state) : s.keepsMarks r.finished := by
  have hrefused := ranTo_refused h
  have hseen := ranTo_faultSeen h
  cases r with
  | done u => exact ⟨hseen.trans, hrefused.trans⟩
  | raised e u => exact ⟨fun _ => rfl, hrefused.trans⟩
  | cut p u => exact ⟨hseen.trans, hrefused.trans⟩

theorem keepsMarks_completed (h : s.ranTo r.state) : s.keepsMarks r.completed := by
  rw [State.keepsMarks, completed_faultSeen, completed_refused]
  exact keepsMarks_finished h

theorem keepsMarks_exec {i : Instr} (h : exec i s = .next t) : s.keepsMarks t := by
  rcases exec_cases i s with ⟨-, ⟨-, h'⟩ | ⟨-, r, h'⟩ | ⟨-, r, hr, h'⟩⟩ | ⟨-, outs, hplain, h'⟩ <;> rw [h'] at h <;> cases h
  · exact keepsMarks_refl s
  · exact keepsMarks_refuse s r
  · exact keepsMarks_completed hr
  · exact keepsMarks_finished (ranTo_emit s hplain)

theorem keepsMarks_fetchStmt {st : Stmt} (h : (fetchStmt st s).outcome = .next t) : s.keepsMarks t := by
  cases st with
  | send w =>
    simp only [fetchStmt] at h
    split at h
    · exact keepsMarks_exec h
    · cases h
  | wait ms =>
    cases h
    exact keepsMarks_finished (ranTo_delay ms s)
  | body b =>
    cases h
    exact keepsMarks_finished (ranTo_initBody b s)
  | enter p =>
    cases h
    exact keepsMarks_refl s

theorem keepsMarks_fetchFrame {f : Frame} (h : (fetchFrame f s).outcome = .next t) : s.keepsMarks t := by
  rcases fetchFrame_cases f s with ⟨i, -, hf⟩ | ⟨r, hf⟩ | hf | hf <;> rw [hf] at h
  · exact keepsMarks_exec h
  · cases h
    exact keepsMarks_refuse s r
  · cases h
    exact keepsMarks_refl s
  · cases h

/-- Settles O36, along the cases of a step without a reset: the release, a statement, a frame or nothing. -/
theorem ghostBitsStay : Obligations.GhostBitsStay := by
  intro s t hr he
  rcases step_cases s with ⟨p, hp, -⟩ | ⟨-, -, hs⟩ | ⟨st, rest, -, -, -, hs⟩ | ⟨f, rest, -, -, -, -, hs⟩ | ⟨-, -, -, -, hs⟩
  · rw [hr] at hp
    cases hp
  · rw [hs] at he
    cases he
    exact keepsMarks_refl s
  · exact keepsMarks_fetchStmt (s := s.setSeq rest) (hs ▸ he)
  · exact keepsMarks_fetchFrame (s := s.setFrames rest) (hs ▸ he)
  · rw [hs] at he
    cases he
    exact keepsMarks_refl s

/-! The phase. -/

/-- READY is left by no instruction. -/
theorem exec_phase_ready {i : Instr} (hp : s.phase = .ready) (h : exec i s = .next t) : t.phase = .ready := by
  rcases exec_cases i s with ⟨-, ⟨-, h'⟩ | ⟨-, r, h'⟩ | ⟨-, r, hr, h'⟩⟩ | ⟨-, outs, hplain, h'⟩ <;> rw [h'] at h <;> cases h
  · exact hp
  · exact hp
  · exact completed_phase_ready ((ranTo_phase hr).trans hp)
  · exact finished_phase_ready ((ranTo_phase (ranTo_emit s hplain)).trans hp)

/-- No operation frame changes the phase: outside READY it is held or refused. -/
theorem exec_phase_of_isFrame {i : Instr} (hi : isFrame i) (h : exec i s = .next t) : t.phase = s.phase := by
  rcases exec_cases i s with ⟨-, ⟨-, h'⟩ | ⟨-, r, h'⟩ | ⟨hp, -⟩⟩ | ⟨hword, -⟩
  · rw [h'] at h
    cases h
    rfl
  · rw [h'] at h
    cases h
    rfl
  · rw [exec_phase_ready hp h, hp]
  · exact absurd hi hword

/-- A step of an idle engine in READY takes a frame or waits. -/
theorem step_readyIdle (h : s.readyIdle) :
    (∃ f rest, s.frames = f :: rest ∧ step s = (fetchFrame f (s.setFrames rest)).outcome) ∨ step s = .next s := by
  obtain ⟨hp, hseq, hr⟩ := h
  have huninit : s.phase ≠ .uninit := by simp [hp]
  have hstatements := statements_nil (.inl hp) hseq
  cases hf : s.frames with
  | cons f rest => exact .inl ⟨f, rest, rfl, step_frame hr huninit hstatements hf⟩
  | nil => exact .inr (step_idle hr huninit hstatements hf)

/-- Settles O45: the end of a run in READY leaves READY, and an operation's body runs in READY only. -/
theorem readyStays : Obligations.ReadyStays := by
  refine ⟨fun i s hp => ?_, fun i s t hi h => exec_phase_of_isFrame hi h, fun s t hidle h => ?_⟩
  · obtain ⟨t, ht⟩ := exec_next i s
    exact ⟨t, ht, exec_phase_ready hp ht⟩
  · obtain ⟨hp, -, -⟩ := id hidle
    rcases step_readyIdle hidle with ⟨f, rest, -, hs⟩ | hs <;> rw [hs] at h
    · rcases fetchFrame_cases f (s.setFrames rest) with ⟨i, -, hf⟩ | ⟨r, hf⟩ | hf | hf <;> rw [hf] at h
      · exact exec_phase_ready (s := s.setFrames rest) hp h
      · cases h
        exact hp
      · cases h
        exact hp
      · cases h
    · cases h
      exact hp

/-! The configuration. -/

/-- The end of a run adds nothing to what the run sent. -/
theorem keepsConfig_endsAs (hr : s.ranTo u) (he : u.EndsAs t) (hreplies : s.replies <+: t.replies)
    (hseq : t.seq = s.seq ∨ (t.seq = [] ∧ t.faultSeen = true))
    (hrefused : t.refused = s.refused ∨ (t.status = s.status ∧ t.faultSeen = s.faultSeen ∧ t.trace = s.trace))
    (hreset : t.resetReq = s.resetReq ∨ t.status = s.status) : s.keepsConfig t := by
  obtain ⟨outs, htrace, hbus, htimer⟩ := ranTo_outs hr
  exact ⟨he.numLines.trans (ranTo_numLines hr), he.numColumns.trans (ranTo_numColumns hr), he.i2cAddr.trans (ranTo_i2cAddr hr),
    he.frames.trans (ranTo_frames hr), hreplies, ⟨outs, he.trace.trans htrace, he.bus.trans hbus, he.timer.trans htimer⟩,
    hseq, hrefused, hreset⟩

theorem keepsConfig_refl (s : State) : s.keepsConfig s :=
  keepsConfig_endsAs (ranTo_refl s) (endsAs_refl s) List.prefix_rfl (.inl rfl) (.inl rfl) (.inl rfl)

theorem keepsConfig_refuse (s : State) (r : Reason) : s.keepsConfig (s.refuse r) :=
  keepsConfig_endsAs (ranTo_refl s) (endsAs_refuse s r) (List.prefix_append _ _) (.inl rfl) (.inr ⟨rfl, rfl, rfl⟩) (.inl rfl)

theorem keepsConfig_finished (h : s.ranTo r.state) : s.keepsConfig r.finished := by
  have hreplies : s.replies <+: r.state.replies := by rw [ranTo_replies h]
  have hseq := ranTo_seq h
  have hrefused := ranTo_refused h
  have hreset := ranTo_resetReq h
  have hstatus := ranTo_status h
  cases r with
  | done u => exact keepsConfig_endsAs h (endsAs_finished _) hreplies (.inl hseq) (.inl hrefused) (.inl hreset)
  | raised e u => exact keepsConfig_endsAs h (endsAs_finished _) hreplies (.inr ⟨rfl, rfl⟩) (.inl hrefused) (.inl hreset)
  | cut p u => exact keepsConfig_endsAs h (endsAs_finished _) hreplies (.inl hseq) (.inl hrefused) (.inr hstatus)

theorem keepsConfig_completed (h : s.ranTo r.state) : s.keepsConfig r.completed := by
  have hreplies : ∀ reply, s.replies <+: r.state.replies ++ [reply] := fun reply => ⟨[reply], by rw [ranTo_replies h]⟩
  have hseq := ranTo_seq h
  have hrefused := ranTo_refused h
  have hreset := ranTo_resetReq h
  cases r with
  | done u => exact keepsConfig_endsAs h (endsAs_completed _) (hreplies _) (.inl hseq) (.inl hrefused) (.inl hreset)
  | raised e u => exact keepsConfig_endsAs h (endsAs_completed _) (hreplies _) (.inr ⟨rfl, rfl⟩) (.inl hrefused) (.inl hreset)
  | cut p u => exact keepsConfig_finished h

/-- Every instruction keeps the configuration, however it ends. -/
theorem keepsConfig_exec {i : Instr} (h : exec i s = .next t) : s.keepsConfig t := by
  rcases exec_cases i s with ⟨-, ⟨-, h'⟩ | ⟨-, r, h'⟩ | ⟨-, r, hr, h'⟩⟩ | ⟨-, outs, hplain, h'⟩ <;> rw [h'] at h <;> cases h
  · exact keepsConfig_refl s
  · exact keepsConfig_refuse s r
  · exact keepsConfig_completed hr
  · exact keepsConfig_finished (ranTo_emit s hplain)

/-! The registers of a flag operation. -/

/-- `t` has the positions of `s`, and its flags are those of `s` but the one that the flag operation `i` writes. -/
def State.onlyFlags (s t : State) (i : Instr) : Prop :=
  s.keepsPositions t ∧
  (i ≠ .backlightOn → i ≠ .backlightOff → t.backlight = s.backlight) ∧ (i ≠ .displayOn → i ≠ .displayOff → t.display = s.display) ∧
  (i ≠ .cursorOn → i ≠ .cursorOff → t.cursor = s.cursor) ∧ (i ≠ .blinkOn → i ≠ .blinkOff → t.blink = s.blink)

theorem onlyFlags_endsAs {i : Instr} (h : s.onlyFlags u i) (he : u.EndsAs t) : s.onlyFlags t i := by
  obtain ⟨⟨hcur, hsaved⟩, hbacklight, hdisplay, hcursor, hblink⟩ := h
  exact ⟨⟨he.cur.trans hcur, he.saved.trans hsaved⟩, fun h1 h2 => he.backlight.trans (hbacklight h1 h2),
    fun h1 h2 => he.display.trans (hdisplay h1 h2), fun h1 h2 => he.cursor.trans (hcursor h1 h2),
    fun h1 h2 => he.blink.trans (hblink h1 h2)⟩

/-- An operation that writes a register and then sends leaves the register written, however much of the sending is done. -/
theorem onlyFlags_execute {i : Instr} {inR : State → Bool} {body : State → Run} {outs : List Out} {w : State}
    (hb : body s = emit outs w) (hw : s.onlyFlags w i) (h : execute inR body s = .next t) : s.onlyFlags t i := by
  rcases execute_endsAs h with he | ⟨-, he⟩
  · have hs : s.onlyFlags s i := ⟨⟨rfl, rfl⟩, fun _ _ => rfl, fun _ _ => rfl, fun _ _ => rfl, fun _ _ => rfl⟩
    exact onlyFlags_endsAs hs he
  · obtain ⟨pre, -, hp⟩ := emit_state outs w
    rw [hb, hp] at he
    exact onlyFlags_endsAs (u := w.emitted pre) hw he

theorem onlyFlags_exec {i : Instr}
    (hi : i ∈ [Instr.cursorOn, .cursorOff, .blinkOn, .blinkOff, .displayOn, .displayOff, .backlightOn, .backlightOff])
    (h : exec i s = .next t) : s.onlyFlags t i := by
  simp only [List.mem_cons, List.not_mem_nil, or_false] at hi
  rcases hi with rfl | rfl | rfl | rfl | rfl | rfl | rfl | rfl
  · exact onlyFlags_execute (bodyCursor_eq true s) (by simp [State.onlyFlags, State.keepsPositions]) h
  · exact onlyFlags_execute (bodyCursor_eq false s) (by simp [State.onlyFlags, State.keepsPositions]) h
  · exact onlyFlags_execute (bodyBlink_eq true s) (by simp [State.onlyFlags, State.keepsPositions]) h
  · exact onlyFlags_execute (bodyBlink_eq false s) (by simp [State.onlyFlags, State.keepsPositions]) h
  · exact onlyFlags_execute (bodyDisplay_eq true s) (by simp [State.onlyFlags, State.keepsPositions]) h
  · exact onlyFlags_execute (bodyDisplay_eq false s) (by simp [State.onlyFlags, State.keepsPositions]) h
  · exact onlyFlags_execute (bodyBacklight_eq true s) (by simp [State.onlyFlags, State.keepsPositions]) h
  · exact onlyFlags_execute (bodyBacklight_eq false s) (by simp [State.onlyFlags, State.keepsPositions]) h

/-- A flag operation is an operation frame. -/
theorem isFrame_of_flagOperation {i : Instr}
    (hi : i ∈ [Instr.cursorOn, .cursorOff, .blinkOn, .blinkOff, .displayOn, .displayOff, .backlightOn, .backlightOff]) : isFrame i := by
  simp only [List.mem_cons, List.not_mem_nil, or_false] at hi
  rcases hi with rfl | rfl | rfl | rfl | rfl | rfl | rfl | rfl <;> exact ⟨_, rfl⟩

/-- Settles O49: any instruction keeps the configuration, a frame keeps the phase, and the body writes its own flag only. -/
theorem flagOperationsFrame : Obligations.FlagOperationsFrame := by
  intro s t i hi h
  obtain ⟨hpositions, hflags⟩ := onlyFlags_exec hi h
  exact ⟨keepsConfig_exec h, hpositions, exec_phase_of_isFrame (isFrame_of_flagOperation hi) h, hflags⟩

end Sys2Proof.Machine
end

section
/-! PROOFS. Noninterference (10_state.md R28): the ghost bits, the status and the replies steer nothing. Wiping them before a body,
an instruction or a step comes to the same as wiping them after it. -/

namespace Sys2Proof.Machine

variable {s s' t : State}

/-! Bodies. -/

/-- The run with the marks of its state wiped. -/
def Run.unmarked : Run → Run
  | .done s => .done s.unmarked
  | .raised e s => .raised e s.unmarked
  | .cut p s => .cut p s.unmarked

/-- The statement does to the wiped state what it does to the state, and ends the same way. -/
def Unsteered (k : State → Run) : Prop := ∀ s, k s.unmarked = (k s).unmarked

theorem andThen_unmarked {k : State → Run} (hk : Unsteered k) (r : Run) : r.unmarked.andThen k = (r.andThen k).unmarked := by
  cases r with
  | done s => exact hk s
  | raised e s => rfl
  | cut p s => rfl

theorem unsteered_seq {j k : State → Run} (hj : Unsteered j) (hk : Unsteered k) : Unsteered fun s => (j s).andThen k := fun s => by
  simp only [hj s]
  exact andThen_unmarked hk _

theorem unsteered_busWrite (b : Byte) : Unsteered (busWrite b) := by
  intro s
  have hbus : s.unmarked.bus = s.bus := rfl
  unfold busWrite
  rw [hbus]
  cases s.bus.peek 0 <;> rfl

theorem unsteered_delay (ms : Nat) : Unsteered (delay ms) := by
  intro s
  have htimer : s.unmarked.timer = s.timer := rfl
  unfold delay
  rw [htimer]
  cases s.timer.peek 0 <;> rfl

theorem unsteered_emit (outs : List Out) : Unsteered (emit outs) := by
  induction outs with
  | nil => exact fun s => rfl
  | cons o rest ih =>
    intro s
    cases o with
    | w b => exact unsteered_seq (unsteered_busWrite b) ih s
    | d ms => exact unsteered_seq (unsteered_delay ms) ih s

/-! What a body sends and writes is read off the flags, the positions and the geometry, which the wiped state keeps. -/

theorem unsteered_writeCommand (cmd : Byte) : Unsteered (writeCommand cmd) := fun s => by
  rw [writeCommand_eq, writeCommand_eq]
  exact unsteered_emit _ s

theorem unsteered_writeData (d : Byte) : Unsteered (writeData d) := fun s => by
  rw [writeData_eq, writeData_eq]
  exact unsteered_emit _ s

theorem unsteered_bodyClear : Unsteered bodyClear := fun s => by
  rw [bodyClear_eq, bodyClear_eq, unsteered_emit _ s]
  exact andThen_unmarked (fun t => rfl) _

theorem unsteered_bodyCursor (v : Bool) : Unsteered (bodyCursor v) := fun s => by
  rw [bodyCursor_eq, bodyCursor_eq]
  exact unsteered_emit _ (s.setCursor v)

theorem unsteered_bodyBlink (v : Bool) : Unsteered (bodyBlink v) := fun s => by
  rw [bodyBlink_eq, bodyBlink_eq]
  exact unsteered_emit _ (s.setBlink v)

theorem unsteered_bodyDisplay (v : Bool) : Unsteered (bodyDisplay v) := fun s => by
  rw [bodyDisplay_eq, bodyDisplay_eq]
  exact unsteered_emit _ (s.setDisplay v)

theorem unsteered_bodyBacklight (v : Bool) : Unsteered (bodyBacklight v) := fun s => by
  rw [bodyBacklight_eq, bodyBacklight_eq]
  exact unsteered_emit _ (s.setBacklight v)

theorem unsteered_bodyMove (save : Bool) (p : Pos) : Unsteered (bodyMove save p) := fun s => by
  rw [bodyMove_eq, bodyMove_eq]
  cases save
  · exact unsteered_emit _ (moveTo p s)
  · exact unsteered_emit _ (saveAndMove p s)

theorem unsteered_bodyPutc (ch : Byte) : Unsteered (bodyPutc ch) := fun s => by
  rw [bodyPutc_eq, bodyPutc_eq, unsteered_emit _ s]
  exact andThen_unmarked (fun t => unsteered_emit _ (t.setCur (s.posAfter ch))) _

theorem unsteered_bodyPuts (text : List Byte) : Unsteered (bodyPuts text) := by
  induction text with
  | nil => exact fun s => rfl
  | cons ch rest ih => exact unsteered_seq (unsteered_bodyPutc ch) ih

theorem unsteered_bodyPutsAt (p : Pos) (text : List Byte) : Unsteered (bodyPutsAt p text) := fun s => by
  have hback : Unsteered fun u => emit (outAddress u.backlight u.saved) (restore u) := fun u => unsteered_emit _ (restore u)
  have htext := unsteered_seq (unsteered_bodyPuts text) hback
  have hmove : saveAndMove p s.unmarked = (saveAndMove p s).unmarked := rfl
  rw [bodyPutsAt_eq, bodyPutsAt_eq, hmove, unsteered_emit _ (saveAndMove p s)]
  exact andThen_unmarked htext _

theorem unsteered_bodyGlyph (slot8 : Byte) (bitmap : List Byte) : Unsteered (bodyGlyph slot8 bitmap) := fun s => by
  rw [bodyGlyph_eq, bodyGlyph_eq]
  exact unsteered_emit _ s

theorem unsteered_initBody (b : InitBody) : Unsteered (initBody b) := by
  cases b
  · exact unsteered_bodyDisplay false
  · exact unsteered_bodyBacklight true
  · exact unsteered_bodyClear
  · exact unsteered_bodyCursor false
  · exact unsteered_bodyDisplay true

/-! Instructions. -/

/-- The outcome with the marks of its state wiped. -/
def unmarkedOutcome : Host.Outcome State Fault Refusal → Host.Outcome State Fault Refusal
  | .next t => .next t.unmarked
  | .fault r => .fault r
  | .refused r => .refused r

/-- `f` comes to the same from the wiped state as from the state, but for the marks. -/
def UnsteeredOutcome (f : State → Host.Outcome State Fault Refusal) : Prop :=
  ∀ s, unmarkedOutcome (f s.unmarked) = unmarkedOutcome (f s)

theorem unsteeredOutcome_finish {k : State → Run} (hk : Unsteered k) : UnsteeredOutcome fun s => finish (k s) := fun s => by
  simp only [hk s]
  cases k s <;> rfl

theorem unsteeredOutcome_complete {k : State → Run} (hk : Unsteered k) : UnsteeredOutcome fun s => complete (k s) := fun s => by
  simp only [hk s]
  cases k s <;> rfl

theorem unsteeredOutcome_execute {inR : State → Bool} {body : State → Run} (hr : ∀ s, inR s.unmarked = inR s)
    (hb : Unsteered body) : UnsteeredOutcome (execute inR body) := fun s => by
  have hgate : s.unmarked.phase = s.phase := rfl
  unfold execute
  rw [hgate, hr]
  cases s.phase.gate with
  | hold => rfl
  | closed => rfl
  | opened =>
    cases inR s
    · rfl
    · exact unsteeredOutcome_complete hb s

theorem unsteeredOutcome_executeIllegal : UnsteeredOutcome executeIllegal := fun s => by
  have hgate : s.unmarked.phase = s.phase := rfl
  unfold executeIllegal
  rw [hgate]
  cases s.phase.gate <;> rfl

theorem unsteeredOutcome_exec (i : Instr) : UnsteeredOutcome (exec i) := by
  have operation : ∀ {body}, Unsteered body → UnsteeredOutcome (execute noCoordinates body) :=
    unsteeredOutcome_execute fun _ => rfl
  have command : ∀ cmd, UnsteeredOutcome fun s => finish (writeCommand cmd s) := fun cmd =>
    unsteeredOutcome_finish (unsteered_writeCommand cmd)
  have nibble : ∀ n, UnsteeredOutcome fun s => finish (writeInitNibble n s) := fun n =>
    unsteeredOutcome_finish (unsteered_emit (outNibble false false n))
  have byte : ∀ b, UnsteeredOutcome fun s => finish (busWrite b s) := fun b => unsteeredOutcome_finish (unsteered_busWrite b)
  cases i with
  | clear => exact operation unsteered_bodyClear
  | cursorOn => exact operation (unsteered_bodyCursor true)
  | cursorOff => exact operation (unsteered_bodyCursor false)
  | blinkOn => exact operation (unsteered_bodyBlink true)
  | blinkOff => exact operation (unsteered_bodyBlink false)
  | displayOn => exact operation (unsteered_bodyDisplay true)
  | displayOff => exact operation (unsteered_bodyDisplay false)
  | backlightOn => exact operation (unsteered_bodyBacklight true)
  | backlightOff => exact operation (unsteered_bodyBacklight false)
  | move save row col => exact unsteeredOutcome_execute (fun _ => rfl) (unsteered_bodyMove save ⟨row, col⟩)
  | putc ch => exact operation (unsteered_bodyPutc ch)
  | puts text => exact operation (unsteered_bodyPuts text)
  | putsAt row col text => exact unsteeredOutcome_execute (fun _ => rfl) (unsteered_bodyPutsAt ⟨row, col⟩ text)
  | glyph slot8 bitmap => exact operation (unsteered_bodyGlyph slot8 bitmap)
  | reservedD rest => exact unsteeredOutcome_executeIllegal
  | reservedE rest => exact unsteeredOutcome_executeIllegal
  | reservedF rest => exact unsteeredOutcome_executeIllegal
  | cmdClr => exact command CLR
  | cmdHome => exact command HOME
  | cmdEntryModeInc => exact command encEntryMode
  | cmdDisplayControl d c b => exact command (encDisplayControl d c b)
  | cmdFunctionSet n => exact command (functionSetByte n)
  | cmdCgramAddr slot => exact command (encCgram slot.toNat)
  | cmdDdramAddr addr => exact command (encDdram addr)
  | dataByte d => exact unsteeredOutcome_finish (unsteered_writeData d)
  | initNibbleReset => exact nibble (encInitNibble .reset)
  | initNibbleFunction => exact nibble (encInitNibble .fourBit)
  | expanderNibbleByte n bl e rs => exact byte (expanderBits n bl e rs)
  | expanderIdle => exact byte IDLE
  | expanderBacklight bl => exact byte (backlightBits bl)

/-! Steps. -/

theorem unsteeredOutcome_fetchStmt (st : Stmt) : UnsteeredOutcome fun s => (fetchStmt st s).outcome := by
  cases st with
  | send w =>
    cases hd : decodeWord w with
    | ok i =>
      simp only [fetchStmt_send hd]
      exact unsteeredOutcome_exec i
    | error e =>
      simp only [fetchStmt, hd]
      exact fun _ => rfl
  | wait ms => exact unsteeredOutcome_finish (unsteered_delay ms)
  | body b => exact unsteeredOutcome_finish (unsteered_initBody b)
  | enter p => exact fun _ => rfl

theorem unsteeredOutcome_fetchFrame (f : Frame) : UnsteeredOutcome fun s => (fetchFrame f s).outcome := fun s => by
  have hgate : s.unmarked.phase = s.phase := rfl
  simp only [fetchFrame, hgate]
  split
  · rfl
  split
  · exact unsteeredOutcome_exec _ s
  · rfl
  · exact unsteeredOutcome_executeIllegal s

theorem unsteeredOutcome_assertReset (p : Params) : UnsteeredOutcome (assertReset p) := fun s => by
  unfold assertReset
  split <;> rfl

/-- What the step does next is read off the reset request, the phase, the sequence and the port, which the wiped state keeps. -/
theorem unsteeredOutcome_step : UnsteeredOutcome step := fun s => by
  rcases step_cases s with ⟨p, hr, hs⟩ | ⟨hr, hp, hs⟩ | ⟨st, rest, hr, hp, hst, hs⟩ | ⟨f, rest, hr, hp, hst, hf, hs⟩ |
    ⟨hr, hp, hst, hf, hs⟩ <;> rw [hs]
  · rw [step_reset (s := s.unmarked) hr]
    exact unsteeredOutcome_assertReset p s
  · rw [step_release (s := s.unmarked) hr hp]
    rfl
  · rw [step_stmt (s := s.unmarked) hr hp hst]
    exact unsteeredOutcome_fetchStmt st (s.setSeq rest)
  · rw [step_frame (s := s.unmarked) hr hp hst hf]
    exact unsteeredOutcome_fetchFrame f (s.setFrames rest)
  · rw [step_idle (s := s.unmarked) hr hp hst hf]
    rfl

/-- Two states that differ in the marks only have outcomes that differ in the marks only. -/
theorem UnsteeredOutcome.congr {f : State → Host.Outcome State Fault Refusal} (hf : UnsteeredOutcome f)
    (h : s.unmarked = s'.unmarked) : unmarkedOutcome (f s) = unmarkedOutcome (f s') := by
  rw [← hf s, h, hf s']

/-- Settles O37: what exec and step do to a state and to the wiped state is the same but for the marks. -/
theorem ghostBitsDoNotSteer : Obligations.GhostBitsDoNotSteer := by
  refine ⟨fun i s s' t t' h he he' => ?_, fun s s' t h hs => ?_, fun s s' r h hs => ?_⟩
  · have heq := (unsteeredOutcome_exec i).congr h
    rw [he, he'] at heq
    injection heq
  · have heq := unsteeredOutcome_step.congr h
    rw [hs] at heq
    cases hs' : step s' with
    | next t' =>
      rw [hs'] at heq
      injection heq with ht
      exact ⟨t', rfl, ht⟩
    | fault r => nomatch r
    | refused r => rw [hs'] at heq; cases heq
  · have heq := unsteeredOutcome_step.congr h
    rw [hs] at heq
    cases hs' : step s' with
    | next t' => rw [hs'] at heq; cases heq
    | fault r => nomatch r
    | refused r' =>
      rw [hs'] at heq
      injection heq with hr
      rw [hr]

end Sys2Proof.Machine
end

section
/-! PROOFS. The controller that reads the trace (PRESUMED, log entries 18 to 20): what each kind of output makes of it. -/

namespace Sys2Proof.Machine

variable {c : Controller} {s t : State}

/-! One output. -/

theorem expanderBits_latch : ∀ (n : Nibble) (bl rs : Bool),
    (expanderBits n bl false rs).getLsbD 2 = false ∧ (expanderBits n bl false rs).getLsbD 3 = bl := by decide

theorem backlightBits_latch (bl : Bool) : (backlightBits bl).getLsbD 2 = false ∧ (backlightBits bl).getLsbD 3 = bl :=
  expanderBits_latch 0 bl false

theorem encDdram_command : ∀ a, classify (encDdram a) = some .ddramAddress ∧ (encDdram a).extractLsb' 0 7 = a := by decide

theorem encDisplayControl_command : ∀ d cu b, classify (encDisplayControl d cu b) = some .displayControl ∧
    (encDisplayControl d cu b).getLsbD 2 = d ∧ (encDisplayControl d cu b).getLsbD 1 = cu ∧
    (encDisplayControl d cu b).getLsbD 0 = b := by decide

theorem clear_command : classify CLR = some .clear := by decide

theorem home_command : classify HOME = some .home := by decide

theorem homePos_address : homePos.address = 0 := by decide

/-- The slot is taken modulo 8, so its command is one of eight. -/
theorem encCgram_command (slot : Nat) : classify (encCgram slot) = some .cgramAddress := by
  have h : ∀ k, k < 8 → classify (CGRAM ||| (BitVec.ofNat 8 k <<< 3)) = some .cgramAddress := by decide
  exact h (slot % 8) (Nat.mod_lt slot (by decide))

/-- A command byte reaches a controller that waits for one; the settle delay tells it nothing. -/
theorem Controller.run_outCommand (bl : Bool) (cmd : Byte) (addr : BitVec 7) (h : c.latch.getLsbD 2 = false)
    (hl : c.link = .fourBit none) :
    c.run ((outCommand bl cmd).map (Out.event addr)) =
      ({ c with latch := expanderBits (lowNibble cmd) bl false false } : Controller).command cmd := by
  have hsettle : ∀ d : Controller, d.run ((if cmd.toNat ≤ 3 then [Out.d 5] else []).map (Out.event addr)) = d := by
    intro d
    split <;> rfl
  rw [outCommand, List.map_append, Controller.run_append, hsettle, Controller.run_outByte c bl false cmd addr h hl]
  rfl

theorem Controller.run_outData (bl : Bool) (v : Byte) (addr : BitVec 7) (h : c.latch.getLsbD 2 = false)
    (hl : c.link = .fourBit none) :
    c.run ((outData bl v).map (Out.event addr)) = ({ c with latch := expanderBits (lowNibble v) bl false true } : Controller).data v :=
  Controller.run_outByte c bl true v addr h hl

/-- The backlight byte makes no edge of E, so the controller takes nothing from it. -/
theorem Controller.run_backlight (bl : Bool) (addr : BitVec 7) (h : c.latch.getLsbD 2 = false) :
    c.run ([Out.w (backlightBits bl)].map (Out.event addr)) = { c with latch := backlightBits bl } := by
  simp only [List.map, Out.event, Controller.run, List.foldl, Controller.observe, Controller.take, h, Bool.false_and,
    Bool.false_eq_true, if_false]

/-! In step but for the address. -/

/-- What `Synced` asks, the address counter left out: the link, the count direction, the flags and the latch. -/
def Tuned (c : Controller) (s : State) : Prop :=
  c.link = .fourBit none ∧ c.increments = true ∧ c.display = s.display ∧ c.cursor = s.cursor ∧ c.blink = s.blink ∧
  c.latch.getLsbD 2 = false ∧ c.latch.getLsbD 3 = s.backlight

theorem synced_iff : Synced c s ↔ Tuned c s ∧ c.pointer = .ddram s.cur.address := by
  unfold Synced Tuned
  tauto

/-- Another pointer, other memories and a latch with E low and the backlight flag leave the controller tuned. -/
theorem tuned_update (h : Tuned c s) (n : Nibble) (rs : Bool) (p : Pointer) (dd cg : Memory) :
    Tuned { c with latch := expanderBits n s.backlight false rs, pointer := p, ddram := dd, cgram := cg } s := by
  obtain ⟨hlink, hinc, hd, hc, hb, -, -⟩ := h
  exact ⟨hlink, hinc, hd, hc, hb, expanderBits_latch n s.backlight rs⟩

/-- An address command brings a tuned controller into step, at the position it is of. -/
theorem synced_outAddress (h : Tuned c s) (addr : BitVec 7) :
    Synced (c.run ((outAddress s.backlight s.cur).map (Out.event addr))) s := by
  obtain ⟨hclass, haddress⟩ := encDdram_command s.cur.address
  obtain ⟨hlink, -, -, -, -, hlow, -⟩ := id h
  rw [outAddress, Controller.run_outCommand s.backlight _ addr hlow hlink]
  simp only [Controller.command, hclass, haddress]
  exact synced_iff.mpr ⟨tuned_update h _ _ _ _ _, rfl⟩

theorem tuned_outCgram (h : Tuned c s) (slot : Nat) (addr : BitVec 7) :
    Tuned (c.run ((outCommand s.backlight (encCgram slot)).map (Out.event addr))) s := by
  obtain ⟨hlink, -, -, -, -, hlow, -⟩ := id h
  rw [Controller.run_outCommand s.backlight _ addr hlow hlink]
  simp only [Controller.command, encCgram_command]
  exact tuned_update h _ _ _ _ _

/-- CLR and HOME bring the address to 0, which is that of the home position. -/
theorem synced_outClear (h : Tuned c s) (addr : BitVec 7) :
    Synced (c.run ((outCommand s.backlight CLR ++ outCommand s.backlight HOME).map (Out.event addr))) (s.setCur homePos) := by
  obtain ⟨hlink, -, -, -, -, hlow, -⟩ := id h
  have hclear : Tuned (c.run ((outCommand s.backlight CLR).map (Out.event addr))) s := by
    rw [Controller.run_outCommand s.backlight CLR addr hlow hlink]
    simp only [Controller.command, clear_command]
    exact tuned_update h _ _ _ _ _
  obtain ⟨hlink', -, -, -, -, hlow', -⟩ := id hclear
  rw [List.map_append, Controller.run_append, Controller.run_outCommand s.backlight HOME addr hlow' hlink']
  simp only [Controller.command, home_command]
  exact synced_iff.mpr ⟨tuned_update hclear _ _ _ _ _, congrArg Pointer.ddram homePos_address.symm⟩

theorem tuned_outData (h : Tuned c s) (v : Byte) (addr : BitVec 7) :
    Tuned (c.run ((outData s.backlight v).map (Out.event addr))) s := by
  obtain ⟨hlink, -, -, -, -, hlow, -⟩ := id h
  rw [Controller.run_outData s.backlight v addr hlow hlink]
  unfold Controller.data
  split <;> exact tuned_update h _ _ _ _ _

/-- A data byte in DDRAM moves the address on by one. -/
theorem pointer_outData (h : Synced c s) (v : Byte) (addr : BitVec 7) :
    (c.run ((outData s.backlight v).map (Out.event addr))).pointer = .ddram (s.cur.address + 1) := by
  obtain ⟨hlink, hinc, hpointer, -, -, -, hlow, -⟩ := h
  rw [Controller.run_outData s.backlight v addr hlow hlink]
  simp [Controller.data, hpointer, Controller.nextAddress, hinc]

theorem tuned_outBitmap (h : Tuned c s) (bitmap : List Byte) (addr : BitVec 7) :
    Tuned (c.run ((bitmap.flatMap (outData s.backlight)).map (Out.event addr))) s := by
  induction bitmap generalizing c with
  | nil => exact h
  | cons b rest ih =>
    rw [List.flatMap_cons, List.map_append, Controller.run_append]
    exact ih (tuned_outData h b addr)

/-- The display-control command carries the flags over, whatever the controller had. -/
theorem synced_outFlags (h : Synced c s) (hcur : t.cur = s.cur) (addr : BitVec 7) :
    Synced (c.run ((outFlags t).map (Out.event addr))) t := by
  obtain ⟨hclass, hd, hc, hb⟩ := encDisplayControl_command t.display t.cursor t.blink
  obtain ⟨hlink, hinc, hpointer, -, -, -, hlow, -⟩ := h
  rw [outFlags, Controller.run_outCommand t.backlight _ addr hlow hlink]
  simp only [Controller.command, hclass, hd, hc, hb]
  exact ⟨hlink, hinc, by rw [hcur]; exact hpointer, rfl, rfl, rfl, expanderBits_latch _ t.backlight false⟩

theorem synced_backlight (h : Synced c s) (v : Bool) (addr : BitVec 7) :
    Synced (c.run ([Out.w (backlightBits v)].map (Out.event addr))) (s.setBacklight v) := by
  obtain ⟨hlink, hinc, hpointer, hd, hc, hb, hlow, -⟩ := h
  rw [Controller.run_backlight v addr hlow]
  exact ⟨hlink, hinc, hpointer, hd, hc, hb, backlightBits_latch v⟩

end Sys2Proof.Machine
end

section
/-! PROOFS. In READY every operation that reaches its end leaves the controller in step with the engine (10_state.md R35). -/

namespace Sys2Proof.Machine

variable {c : Controller} {s t : State}

theorem andThen_eq_done {r : Run} {k : State → Run} (h : r.andThen k = .done t) : ∃ u, r = .done u ∧ k u = .done t := by
  cases r with
  | done u => exact ⟨u, rfl, h⟩
  | raised e u => cases h
  | cut p u => cases h

/-- The controller that has read the engine's trace is in step with it. -/
def Follows (c : Controller) (s : State) : Prop := Synced (c.run s.trace) s

/-- The controller that has read the engine's trace is in step with it but for the address. -/
def Listens (c : Controller) (s : State) : Prop := Tuned (c.run s.trace) s

theorem listens_of_follows (h : Follows c s) : Listens c s := (synced_iff.mp h).1

theorem run_emitted_trace (c : Controller) (s : State) (outs : List Out) :
    c.run (s.emitted outs).trace = (c.run s.trace).run (outs.map (Out.event s.i2cAddr)) := by
  rw [State.emitted_trace, Controller.run_append]

/-! Readdressing, and the address of the next column. -/

theorem follows_emit_address (h : Listens c s) (hd : emit (outAddress s.backlight s.cur) s = .done t) : Follows c t := by
  rw [(emit_done hd).1, Follows, run_emitted_trace]
  exact synced_outAddress h s.i2cAddr

/-- The address counts on with the column (41_cursor_state.md R90), as long as the column keeps to its six bits. -/
theorem displayAddress_next : ∀ (row : BitVec 2) (col : BitVec 6), col.toNat + 1 < 2 ^ 6 →
    displayAddress row (BitVec.ofNat 6 (col.toNat + 1)) = displayAddress row col + 1 := by decide

theorem follows_setCur_next (h : Listens c s) {p : Pos} (hp : p.col.toNat + 1 < 2 ^ 6)
    (ha : (c.run s.trace).pointer = .ddram (p.address + 1)) : Follows c (s.setCur ⟨p.row, BitVec.ofNat 6 (p.col.toNat + 1)⟩) :=
  synced_iff.mpr ⟨h, ha.trans (congrArg Pointer.ddram (displayAddress_next p.row p.col hp).symm)⟩

/-! Bodies. -/

theorem follows_bodyClear (h : Follows c s) (hd : bodyClear s = .done t) : Follows c t := by
  rw [bodyClear_eq] at hd
  obtain ⟨u, hu, ht⟩ := andThen_eq_done hd
  cases ht
  rw [(emit_done hu).1, Follows, State.setCur_trace, run_emitted_trace]
  exact synced_outClear (listens_of_follows h) s.i2cAddr

/-- A display-control command is sent after the flags are written. -/
theorem follows_emit_flags {w : State} (h : Follows c s) (hd : emit (outFlags w) w = .done t) (htrace : w.trace = s.trace)
    (hcur : w.cur = s.cur) : Follows c t := by
  rw [(emit_done hd).1, Follows, run_emitted_trace, htrace]
  exact synced_outFlags (t := w) h hcur w.i2cAddr

theorem follows_bodyCursor {v : Bool} (h : Follows c s) (hd : bodyCursor v s = .done t) : Follows c t :=
  follows_emit_flags h ((bodyCursor_eq v s).symm.trans hd) rfl rfl

theorem follows_bodyBlink {v : Bool} (h : Follows c s) (hd : bodyBlink v s = .done t) : Follows c t :=
  follows_emit_flags h ((bodyBlink_eq v s).symm.trans hd) rfl rfl

theorem follows_bodyDisplay {v : Bool} (h : Follows c s) (hd : bodyDisplay v s = .done t) : Follows c t :=
  follows_emit_flags h ((bodyDisplay_eq v s).symm.trans hd) rfl rfl

theorem follows_bodyBacklight {v : Bool} (h : Follows c s) (hd : bodyBacklight v s = .done t) : Follows c t := by
  rw [bodyBacklight_eq] at hd
  rw [(emit_done hd).1, Follows, run_emitted_trace]
  exact synced_backlight h v _

theorem follows_bodyMove {save : Bool} {p : Pos} (h : Follows c s) (hd : bodyMove save p s = .done t) : Follows c t := by
  have hlistens : Listens c s := listens_of_follows h
  rw [bodyMove_eq] at hd
  cases save
  · exact follows_emit_address (s := moveTo p s) hlistens hd
  · exact follows_emit_address (s := saveAndMove p s) hlistens hd

/-- A character that wraps sends the new address; any other leaves the address that its data byte counted on to. -/
theorem follows_bodyPutc {ch : Byte} (h : Follows c s) (hb : s.inBounds) (hd : bodyPutc ch s = .done t) : Follows c t := by
  rw [bodyPutc_eq] at hd
  obtain ⟨u, hu, ht⟩ := andThen_eq_done hd
  obtain ⟨rfl, -⟩ := emit_done hu
  have hlistens : Listens c (s.emitted (charData s.backlight ch)) := by
    rw [Listens, run_emitted_trace, charData]
    split
    · exact listens_of_follows h
    · exact tuned_outData (listens_of_follows h) ch s.i2cAddr
  by_cases hwrap : ch = NEWLINE ∨ atLastColumn s = true
  · rw [State.charAddress, if_pos hwrap] at ht
    exact follows_emit_address (s := (s.emitted _).setCur (s.posAfter ch)) hlistens ht
  · rw [State.charAddress, if_neg hwrap] at ht
    cases ht
    have hn : ch ≠ NEWLINE := fun hn => hwrap (.inl hn)
    have hcol : s.cur.col.toNat + 1 < 2 ^ 6 := by
      obtain ⟨-, hcolumns, ⟨-, hcol⟩, -⟩ := hb
      simp only [MAX_COLS] at hcolumns
      omega
    rw [State.posAfter, if_neg hwrap]
    refine follows_setCur_next hlistens hcol ?_
    rw [run_emitted_trace, charData, if_neg hn]
    exact pointer_outData h ch s.i2cAddr

theorem follows_bodyPuts {text : List Byte} (h : Follows c s) (hb : s.inBounds) (hd : bodyPuts text s = .done t) : Follows c t := by
  induction text generalizing s with
  | nil =>
    cases hd
    exact h
  | cons ch rest ih =>
    rw [bodyPuts_cons] at hd
    obtain ⟨u, hu, ht⟩ := andThen_eq_done hd
    have hbounds := inBounds_bodyPutc ch hb
    rw [hu] at hbounds
    exact ih (follows_bodyPutc h hb hu) hbounds ht

theorem follows_bodyPutsAt {p : Pos} {text : List Byte} (h : Follows c s) (hb : s.inBounds) (hp : s.within p)
    (hd : bodyPutsAt p text s = .done t) : Follows c t := by
  rw [bodyPutsAt_eq] at hd
  obtain ⟨u, hu, hd⟩ := andThen_eq_done hd
  obtain ⟨v, hv, ht⟩ := andThen_eq_done hd
  have hlistens : Listens c s := listens_of_follows h
  have hmoved : Follows c u := follows_emit_address (s := saveAndMove p s) hlistens hu
  have hbounds : u.inBounds := by
    rw [(emit_done hu).1]
    exact inBounds_emitted _ (inBounds_saveAndMove hb hp)
  have hprinted : Listens c v := listens_of_follows (follows_bodyPuts hmoved hbounds hv)
  exact follows_emit_address (s := restore v) hprinted ht

theorem follows_bodyGlyph {slot8 : Byte} {bitmap : List Byte} (h : Follows c s) (hd : bodyGlyph slot8 bitmap s = .done t) :
    Follows c t := by
  rw [bodyGlyph_eq] at hd
  rw [(emit_done hd).1, Follows, run_emitted_trace, List.map_append, List.map_append, Controller.run_append, Controller.run_append]
  have hslot := tuned_outCgram (listens_of_follows h) slot8.toNat s.i2cAddr
  exact synced_outAddress (tuned_outBitmap hslot bitmap s.i2cAddr) s.i2cAddr

/-! Operations and steps. -/

/-- Without a fault and a reset, an operation is held, refused, or its body reaches its end. -/
theorem follows_execute {inR : State → Bool} {body : State → Run} (h : Follows c s)
    (hb : inR s = true → ∀ u, body s = .done u → Follows c u) (he : execute inR body s = .next t) (hfault : t.faultSeen = false)
    (hreset : t.resetReq = none) : Follows c t := by
  rcases execute_cases inR body s with ⟨-, h'⟩ | ⟨-, h'⟩ | ⟨-, -, h'⟩ | ⟨-, hr, h'⟩ <;> rw [h'] at he <;> cases he
  · exact h
  · exact h
  · exact h
  · cases hrun : body s with
    | done u => exact hb hr u hrun
    | raised e u => rw [hrun] at hfault; cases hfault
    | cut p u => rw [hrun] at hreset; cases hreset

theorem follows_executeIllegal (h : Follows c s) (he : executeIllegal s = .next t) : Follows c t := by
  rcases executeIllegal_cases s with h' | ⟨r, h'⟩ <;> rw [h'] at he <;> cases he
  · exact h
  · exact h

theorem follows_exec {i : Instr} (hi : isFrame i) (h : Follows c s) (hb : s.inBounds) (he : exec i s = .next t)
    (hfault : t.faultSeen = false) (hreset : t.resetReq = none) : Follows c t := by
  have operation : ∀ {inR body}, execute inR body s = .next t → (inR s = true → ∀ u, body s = .done u → Follows c u) →
      Follows c t := fun he' hbody => follows_execute h hbody he' hfault hreset
  cases i with
  | clear => exact operation he fun _ _ => follows_bodyClear h
  | cursorOn => exact operation he fun _ _ => follows_bodyCursor h
  | cursorOff => exact operation he fun _ _ => follows_bodyCursor h
  | blinkOn => exact operation he fun _ _ => follows_bodyBlink h
  | blinkOff => exact operation he fun _ _ => follows_bodyBlink h
  | displayOn => exact operation he fun _ _ => follows_bodyDisplay h
  | displayOff => exact operation he fun _ _ => follows_bodyDisplay h
  | backlightOn => exact operation he fun _ _ => follows_bodyBacklight h
  | backlightOff => exact operation he fun _ _ => follows_bodyBacklight h
  | move save row col => exact operation he fun _ _ => follows_bodyMove h
  | putc ch => exact operation he fun _ _ => follows_bodyPutc h hb
  | puts text => exact operation he fun _ _ => follows_bodyPuts h hb
  | putsAt row col text => exact operation he fun hr _ => follows_bodyPutsAt h hb (inRange_iff.mp hr)
  | glyph slot8 bitmap => exact operation he fun _ _ => follows_bodyGlyph h
  | reservedD rest => exact follows_executeIllegal h he
  | reservedE rest => exact follows_executeIllegal h he
  | reservedF rest => exact follows_executeIllegal h he
  | _ => obtain ⟨f, ⟨⟩⟩ := hi

/-- Settles O56: the step runs the frame on the port, whose body ends with the controller in step, refuses it, or waits. -/
theorem readyKeepsTheControllerInStep : Obligations.ReadyKeepsTheControllerInStep := by
  intro c s t hidle hb h he hfault hreset
  rcases step_readyIdle hidle with ⟨f, rest, -, hs⟩ | hs <;> rw [hs] at he
  · rcases fetchFrame_cases f (s.setFrames rest) with ⟨i, hi, hf⟩ | ⟨r, hf⟩ | hf | hf <;> rw [hf] at he
    · exact follows_exec (s := s.setFrames rest) (isFrame_of_decodeFrame hi) h hb he hfault hreset
    · cases he
      exact h
    · cases he
      exact h
    · cases he
  · cases he
    exact h

end Sys2Proof.Machine
end

section
/-! PROOFS. Whatever the controller reads, the known cells of its memories stay in canonical form (log entry 18). -/

namespace Sys2Proof.Machine

variable {c : Controller}

/-- The known cells of both memories stand in canonical form. -/
def Controller.Canonical (c : Controller) : Prop := Memory.wf c.ddram = true ∧ Memory.wf c.cgram = true

theorem canonical_data (v : Byte) (h : c.Canonical) : (c.data v).Canonical := by
  obtain ⟨hddram, hcgram⟩ := h
  unfold Controller.data
  split
  · exact ⟨Memory.wf_write _ v hddram, hcgram⟩
  · exact ⟨hddram, Memory.wf_write _ v hcgram⟩

/-- The only command that touches a memory is CLR, which leaves DDRAM without a known cell. -/
theorem canonical_command (v : Byte) (h : c.Canonical) : (c.command v).Canonical := by
  unfold Controller.command
  cases classify v with
  | none => exact h
  | some k =>
    cases k with
    | clear => exact ⟨rfl, h.2⟩
    | _ => exact h

theorem canonical_byte (rs : Bool) (v : Byte) (h : c.Canonical) : (c.byte rs v).Canonical := by
  cases rs with
  | false => exact canonical_command v h
  | true => exact canonical_data v h

theorem canonical_nibble (rs : Bool) (n : Nibble) (h : c.Canonical) : (c.nibble rs n).Canonical := by
  unfold Controller.nibble
  split
  · exact canonical_byte rs _ h
  · exact h
  · exact canonical_byte rs _ h

theorem canonical_take (b : Byte) (h : c.Canonical) : (c.take b).Canonical := by
  have hlatched : ({ c with latch := b } : Controller).Canonical := h
  simp only [Controller.take]
  split
  · exact canonical_nibble _ _ hlatched
  · exact hlatched

theorem canonical_observe (ev : Event) (h : c.Canonical) : (c.observe ev).Canonical := by
  cases ev with
  | write a b => exact canonical_take b h
  | delay ms => exact h

theorem canonical_run (trace : List Event) (h : c.Canonical) : (c.run trace).Canonical := by
  induction trace generalizing c with
  | nil => exact h
  | cons ev rest ih => exact ih (canonical_observe ev h)

/-- Settles O60: a controller in canonical form stays so at every event, since a data byte is stored in order and CLR forgets. -/
theorem controllerMemoryStaysCanonical : Obligations.ControllerMemoryStaysCanonical :=
  fun _ trace hddram hcgram => canonical_run trace ⟨hddram, hcgram⟩

end Sys2Proof.Machine
end

section
/-! PROOFS. What the engine's outputs leave in DDRAM and CGRAM (20_memory.md R42, R43; PRESUMED controller, log entry 18): an address
command stores nothing, and a data byte is stored at the address counter. -/

namespace Sys2Proof.Machine

variable {c : Controller} {s t : State}

/-! Bytes stored one after another. -/

/-- Bytes stored from an address upwards. -/
def Memory.writeAll (m : Memory) (a : Nat) : List Byte → Memory
  | [] => m
  | v :: rest => (m.write a v).writeAll (a + 1) rest

theorem Memory.read_writeAll_other (m : Memory) {a x : Nat} (bytes : List Byte) (h : ∀ i, i < bytes.length → x ≠ a + i) :
    (m.writeAll a bytes).read x = m.read x := by
  induction bytes generalizing m a with
  | nil => rfl
  | cons v rest ih =>
    have hfirst : x ≠ a := h 0 (Nat.zero_lt_succ _)
    have hrest : ∀ i, i < rest.length → x ≠ a + 1 + i := fun i hi => by
      rw [Nat.add_right_comm]
      exact h (i + 1) (Nat.succ_lt_succ hi)
    rw [Memory.writeAll, ih _ hrest, Memory.read_write_other m v hfirst]

theorem Memory.read_writeAll_same (m : Memory) (a : Nat) {bytes : List Byte} {i : Nat} (h : i < bytes.length) :
    (m.writeAll a bytes).read (a + i) = bytes[i]? := by
  induction bytes generalizing m a i with
  | nil => cases h
  | cons v rest ih =>
    rw [Memory.writeAll]
    cases i with
    | zero =>
      rw [Memory.read_writeAll_other _ rest (fun i _ => by omega)]
      exact Memory.read_write_same m a v
    | succ j =>
      rw [← Nat.add_assoc, Nat.add_right_comm, List.getElem?_cons_succ]
      exact ih _ _ (Nat.lt_of_succ_lt_succ h)

/-! One output. -/

/-- The address command of a position moves the address counter there, and does no more. -/
theorem run_outAddress (h : Tuned c s) (p : Pos) (addr : BitVec 7) :
    c.run ((outAddress s.backlight p).map (Out.event addr)) =
      { c with latch := expanderBits (lowNibble (encDdram p.address)) s.backlight false false, pointer := .ddram p.address } := by
  obtain ⟨hclass, haddress⟩ := encDdram_command p.address
  obtain ⟨hlink, -, -, -, -, hlow, -⟩ := h
  rw [outAddress, Controller.run_outCommand s.backlight _ addr hlow hlink]
  simp only [Controller.command, hclass, haddress]

/-- The slot is taken modulo 8, and each has 8 rows (20_memory.md R43). -/
theorem encCgram_address (slot : Nat) : (encCgram slot).extractLsb' 0 6 = BitVec.ofNat 6 (slot % 8 * 8) := by
  have h : ∀ k, k < 8 → (CGRAM ||| (BitVec.ofNat 8 k <<< 3)).extractLsb' 0 6 = BitVec.ofNat 6 (k * 8) := by decide
  exact h (slot % 8) (Nat.mod_lt slot (by decide))

/-- The CGRAM command of a slot moves the address counter to the slot's first row, and does no more. -/
theorem run_outCgram (h : Tuned c s) (slot : Nat) (addr : BitVec 7) :
    c.run ((outCommand s.backlight (encCgram slot)).map (Out.event addr)) =
      { c with latch := expanderBits (lowNibble (encCgram slot)) s.backlight false false,
               pointer := .cgram (BitVec.ofNat 6 (slot % 8 * 8)) } := by
  obtain ⟨hlink, -, -, -, -, hlow, -⟩ := h
  rw [Controller.run_outCommand s.backlight _ addr hlow hlink]
  simp only [Controller.command, encCgram_command, encCgram_address]

/-- A data byte in DDRAM: the cell of the cursor's address, and the next address. -/
theorem run_outData_ddram (h : Synced c s) (v : Byte) (addr : BitVec 7) :
    c.run ((outData s.backlight v).map (Out.event addr)) =
      { c with latch := expanderBits (lowNibble v) s.backlight false true, pointer := .ddram (s.cur.address + 1),
               ddram := c.ddram.write s.cur.address.toNat v } := by
  obtain ⟨hlink, hinc, hpointer, -, -, -, hlow, -⟩ := h
  rw [Controller.run_outData s.backlight v addr hlow hlink]
  simp [Controller.data, hpointer, Controller.nextAddress, hinc]

/-- A data byte in CGRAM: the cell of the address counter, and the next address. -/
theorem run_outData_cgram (h : Tuned c s) {a : BitVec 6} (hpointer : c.pointer = .cgram a) (v : Byte) (addr : BitVec 7) :
    c.run ((outData s.backlight v).map (Out.event addr)) =
      { c with latch := expanderBits (lowNibble v) s.backlight false true, pointer := .cgram (a + 1),
               cgram := c.cgram.write a.toNat v } := by
  obtain ⟨hlink, hinc, -, -, -, hlow, -⟩ := h
  rw [Controller.run_outData s.backlight v addr hlow hlink]
  simp [Controller.data, hpointer, Controller.nextAddress, hinc]

/-- Bitmap bytes that fit below the end of CGRAM stand there from the address counter upwards; DDRAM is as before. -/
theorem memories_outBitmap (h : Tuned c s) {a : Nat} {bitmap : List Byte} (hpointer : c.pointer = .cgram (BitVec.ofNat 6 a))
    (hfit : a + bitmap.length ≤ 64) (addr : BitVec 7) :
    (c.run ((bitmap.flatMap (outData s.backlight)).map (Out.event addr))).cgram = c.cgram.writeAll a bitmap ∧
      (c.run ((bitmap.flatMap (outData s.backlight)).map (Out.event addr))).ddram = c.ddram := by
  induction bitmap generalizing c a with
  | nil => exact ⟨rfl, rfl⟩
  | cons v rest ih =>
    rw [List.length_cons] at hfit
    have hnext : BitVec.ofNat 6 a + 1 = BitVec.ofNat 6 (a + 1) := (BitVec.ofNat_add a 1).symm
    have ha : (BitVec.ofNat 6 a).toNat = a := Nat.mod_eq_of_lt (by omega)
    have htuned := tuned_outData h v addr
    rw [run_outData_cgram h hpointer v addr, hnext, ha] at htuned
    rw [List.flatMap_cons, List.map_append, Controller.run_append, run_outData_cgram h hpointer v addr, hnext, ha]
    exact ih htuned rfl (by omega)

/-- Whether or not a character sends a new address, its re-address stores nothing. -/
theorem memories_charAddress (h : Tuned c s) (u : State) (hbl : u.backlight = s.backlight) (ch : Byte) (addr : BitVec 7) :
    (c.run ((u.charAddress ch).map (Out.event addr))).ddram = c.ddram ∧
      (c.run ((u.charAddress ch).map (Out.event addr))).cgram = c.cgram := by
  rw [State.charAddress, hbl]
  split
  · rw [run_outAddress h]
    exact ⟨rfl, rfl⟩
  · exact ⟨rfl, rfl⟩

/-! Operations. -/

/-- In READY, an operation without coordinates that ends with no fault and no reset has run its body to the end. -/
theorem execute_reaches_end {body : State → Run} (hp : s.phase = .ready) (he : execute noCoordinates body s = .next t)
    (hfault : t.faultSeen = false) (hreset : t.resetReq = none) : ∃ u, body s = .done u ∧ t.trace = u.trace := by
  rw [execute_ready hp rfl] at he
  cases he
  cases hrun : body s with
  | done u => exact ⟨u, rfl, rfl⟩
  | raised e u => rw [hrun] at hfault; cases hfault
  | cut p u => rw [hrun] at hreset; cases hreset

theorem memories_bodyPutc {ch : Byte} (h : Follows c s) (hn : ch ≠ NEWLINE) (hd : bodyPutc ch s = .done t) :
    (c.run t.trace).ddram = (c.run s.trace).ddram.write s.cur.address.toNat ch ∧ (c.run t.trace).cgram = (c.run s.trace).cgram := by
  rw [bodyPutc_eq, charData, if_neg hn] at hd
  obtain ⟨u, hu, ht⟩ := andThen_eq_done hd
  obtain ⟨rfl, -⟩ := emit_done hu
  rw [(emit_done ht).1, run_emitted_trace, State.setCur_trace, run_emitted_trace]
  have htuned := tuned_outData (listens_of_follows h) ch s.i2cAddr
  obtain ⟨hddram, hcgram⟩ := memories_charAddress htuned s rfl ch s.i2cAddr
  rw [run_outData_ddram h] at hddram hcgram ⊢
  exact ⟨hddram, hcgram⟩

theorem memories_bodyGlyph {slot8 : Byte} {bitmap : List Byte} (h : Follows c s) (hlen : bitmap.length = 8)
    (hd : bodyGlyph slot8 bitmap s = .done t) :
    (c.run t.trace).cgram = (c.run s.trace).cgram.writeAll (slot8.toNat % 8 * 8) bitmap ∧
      (c.run t.trace).ddram = (c.run s.trace).ddram := by
  have hslot := tuned_outCgram (listens_of_follows h) slot8.toNat s.i2cAddr
  have hbitmap := tuned_outBitmap hslot bitmap s.i2cAddr
  rw [bodyGlyph_eq] at hd
  rw [(emit_done hd).1, run_emitted_trace, List.map_append, List.map_append, Controller.run_append, Controller.run_append,
    run_outAddress hbitmap]
  rw [run_outCgram (listens_of_follows h)] at hslot ⊢
  exact memories_outBitmap hslot rfl (by omega) s.i2cAddr

/-- Settles O58: the data byte goes to the cell of the old cursor's address, and a re-address after it stores nothing. -/
theorem printedCharacterStandsInDdram : Obligations.PrintedCharacterStandsInDdram := by
  intro c s t ch hp _ hsynced hn he hfault hreset
  obtain ⟨u, hu, htrace⟩ := execute_reaches_end hp he hfault hreset
  obtain ⟨hddram, hcgram⟩ := memories_bodyPutc hsynced hn hu
  rw [htrace, hddram]
  exact ⟨Memory.read_write_same _ _ ch, fun a ha => Memory.read_write_other _ ch ha, hcgram⟩

/-- Settles O59: the 8 bytes go to the 8 rows of the slot, none of them past the end of CGRAM. -/
theorem glyphStandsInCgram : Obligations.GlyphStandsInCgram := by
  intro c s t slot8 bitmap hp _ hsynced hlen he hfault hreset
  obtain ⟨u, hu, htrace⟩ := execute_reaches_end hp he hfault hreset
  obtain ⟨hcgram, hddram⟩ := memories_bodyGlyph hsynced hlen hu
  rw [htrace, hcgram]
  exact ⟨fun i hi => Memory.read_writeAll_same _ _ (hlen.symm ▸ hi),
    fun a ha => Memory.read_writeAll_other _ bitmap fun i hi => ha i (hlen ▸ hi), hddram⟩

end Sys2Proof.Machine
end

section
/-! PROOFS. Headers field by field (30_encoding.md R56, R58): a header is its eight fields, and the mask of a row of the opcode table
keeps the fields that are no operand of it. -/

namespace Sys2Proof

variable {h k : BitVec 32}

/-- The places of the fields (30_encoding.md R56). -/
theorem toNat_eq_fields (h : BitVec 32) : h.toNat =
    (hdrOpc h).toNat * 2 ^ 28 + (hdrF h).toNat * 2 ^ 27 + (hdrRsv1 h).toNat * 2 ^ 26 + (hdrRow h).toNat * 2 ^ 24 +
    (hdrRsv2 h).toNat * 2 ^ 22 + (hdrCol h).toNat * 2 ^ 16 + (hdrLen h).toNat * 2 ^ 8 + (hdrLow h).toNat := by
  simp only [hdrOpc, hdrF, hdrRsv1, hdrRow, hdrRsv2, hdrCol, hdrLen, hdrLow, extract_toNat, BitVec.getLsbD, Nat.toNat_testBit]
  omega

/-- A header is its eight fields (30_encoding.md R56). -/
theorem header_ext_iff : h = k ↔
    hdrOpc h = hdrOpc k ∧ hdrF h = hdrF k ∧ hdrRsv1 h = hdrRsv1 k ∧ hdrRow h = hdrRow k ∧ hdrRsv2 h = hdrRsv2 k ∧
    hdrCol h = hdrCol k ∧ hdrLen h = hdrLen k ∧ hdrLow h = hdrLow k := by
  refine ⟨by rintro rfl; simp, fun ⟨hopc, hf, hrsv1, hrow, hrsv2, hcol, hlen, hlow⟩ => BitVec.eq_of_toNat_eq ?_⟩
  rw [toNat_eq_fields h, toNat_eq_fields k, hopc, hf, hrsv1, hrow, hrsv2, hcol, hlen, hlow]

/-- The opcode and everything below it. -/
theorem append_hdrRest {opc : BitVec 4} (hopc : (hdrOpc h).toNat = opc.toNat) : opc ++ hdrRest h = h := by
  apply BitVec.eq_of_toNat_eq
  simp only [hdrOpc, extract_toNat] at hopc
  simp only [append_toNat opc, hdrRest, extract_toNat]
  omega

theorem extract_not {w lo n : Nat} (x : BitVec w) (hfits : lo + n ≤ w) : (~~~x).extractLsb' lo n = ~~~(x.extractLsb' lo n) := by
  ext i hi
  have hbit : lo + i < w := by omega
  simp [hbit]

/-- Masking a header masks each of its fields. -/
theorem hdr_and_not (h k : BitVec 32) :
    hdrOpc (h &&& ~~~k) = hdrOpc h &&& ~~~hdrOpc k ∧ hdrF (h &&& ~~~k) = (hdrF h && !hdrF k) ∧
    hdrRsv1 (h &&& ~~~k) = (hdrRsv1 h && !hdrRsv1 k) ∧ hdrRow (h &&& ~~~k) = hdrRow h &&& ~~~hdrRow k ∧
    hdrRsv2 (h &&& ~~~k) = hdrRsv2 h &&& ~~~hdrRsv2 k ∧ hdrCol (h &&& ~~~k) = hdrCol h &&& ~~~hdrCol k ∧
    hdrLen (h &&& ~~~k) = hdrLen h &&& ~~~hdrLen k ∧ hdrLow (h &&& ~~~k) = hdrLow h &&& ~~~hdrLow k := by
  simp [hdrOpc, hdrF, hdrRsv1, hdrRow, hdrRsv2, hdrCol, hdrLen, hdrLow, BitVec.extractLsb'_and, extract_not]

theorem hdr_allOnes : hdrF (BitVec.allOnes 32) = true ∧ hdrRow (BitVec.allOnes 32) = BitVec.allOnes 2 ∧
    hdrCol (BitVec.allOnes 32) = BitVec.allOnes 6 ∧ hdrLen (BitVec.allOnes 32) = BitVec.allOnes 8 ∧
    hdrLow (BitVec.allOnes 32) = BitVec.allOnes 8 := by decide

/-! The header and the mask of a row. -/

/-- `x` where it is used, else 0. -/
def keepIf {w : Nat} (used : Bool) (x : BitVec w) : BitVec w := if used then x else 0

theorem eq_keepIf_of_unused {w : Nat} {used : Bool} {x : BitVec w} (hx : used = true ∨ x = 0) : x = keepIf used x := by
  rcases hx with rfl | rfl
  · rfl
  · exact (ite_self _).symm

theorem and_not_keepIf_eq_zero_iff {w : Nat} (used : Bool) (x : BitVec w) :
    x &&& ~~~keepIf used (BitVec.allOnes w) = 0#w ↔ x = keepIf used x := by
  cases used <;> simp [keepIf]

/-- The header with this opcode, the operands taken from `h`, and the F flag `f` where F is no operand (30_encoding.md R58). -/
def FieldUse.header (u : FieldUse) (opc : BitVec 4) (f : Bool) (h : BitVec 32) : BitVec 32 :=
  Sys2Proof.header opc (if u.f then hdrF h else f) (keepIf u.row (hdrRow h)) (keepIf u.col (hdrCol h)) (keepIf u.len (hdrLen h))
    (keepIf u.low (hdrLow h))

/-- Every bit that belongs to no operand (30_encoding.md R58). -/
def FieldUse.mask (u : FieldUse) : BitVec 32 := ~~~u.header 0 false (BitVec.allOnes 32)

/-- The mask leaves of a header what the row fixes exactly when the header is one of the row. -/
theorem and_mask_eq_iff {u : FieldUse} {f : Bool} (hf : (u.f && f) = false) (opc : BitVec 4) (h : BitVec 32) :
    h &&& u.mask = header opc f 0 0 0 0 ↔ h = u.header opc f h := by
  have hflag : (hdrF h && !u.f) = f ↔ hdrF h = if u.f then hdrF h else f := by
    revert hf
    cases u.f <;> cases f <;> simp
  simp only [header_ext_iff, FieldUse.mask, hdr_and_not, FieldUse.header, hdrOpc_header, hdrF_header, hdrRsv1_header, hdrRow_header,
    hdrRsv2_header, hdrCol_header, hdrLen_header, hdrLow_header, hdr_allOnes, and_not_keepIf_eq_zero_iff, BitVec.ofNat_eq_ofNat,
    BitVec.not_zero, BitVec.and_allOnes]
  simp [hflag]

end Sys2Proof
end

section
/-! PROOFS. The decoder on every frame (30_encoding.md R57 to R62): which frames pass its checks, and what a frame that is read is
written back as. -/

namespace Sys2Proof

open Machine

variable {f : Frame} {i j : Instr}

/-! The checks. -/

/-- The fields below the opcode that the operation of a header uses (30_encoding.md R58). -/
def headerUse (h : BitVec 32) : FieldUse :=
  match (hdrOpc h).toNat with
  | 0x9 => moveUse
  | 0xA => { low := true }
  | 0xB => if hdrF h then putsAtUse else { len := true }
  | 0xC => { low := true }
  | _ => {}

/-- Below the reserved opcodes decoding is the checks of R62 and R60, with the fields that the header's operation uses.What is used
depends on the opcode and, for PUTS, on F. -/
theorem decodeFrame_checked (hopc : (hdrOpc f.header).toNat < 0xD) :
    ∃ i, decodeFrame f = checkedFrame (headerUse f.header) (payloadBytes f.header) f i := by
  unfold decodeFrame headerUse payloadBytes
  generalize (hdrOpc f.header).toNat = opc at hopc
  cases hdrF f.header <;> interval_cases opc <;> exact ⟨_, rfl⟩

/-- A reserved opcode is read whatever the rest of its header holds. -/
theorem decodeFrame_reservedOpcode (hopc : 0xD ≤ (hdrOpc f.header).toNat) :
    ∃ i ∈ [Instr.reservedD (hdrRest f.header), .reservedE (hdrRest f.header), .reservedF (hdrRest f.header)],
      decodeFrame f = .ok i := by
  have hwidth : (hdrOpc f.header).toNat < 16 := (hdrOpc f.header).isLt
  unfold decodeFrame
  generalize (hdrOpc f.header).toNat = opc at hopc hwidth
  interval_cases opc <;> simp

theorem unusedZero_iff {u : FieldUse} {h : BitVec 32} : unusedZero u h = true ↔
    (u.f = true ∨ hdrF h = false) ∧ (u.row = true ∨ hdrRow h = 0) ∧ (u.col = true ∨ hdrCol h = 0) ∧
    (u.len = true ∨ hdrLen h = 0) ∧ (u.low = true ∨ hdrLow h = 0) := by
  simp [unusedZero, and_assoc]

/-- The conditions of R62 are a reserved opcode or what the decoder's checks reject. -/
theorem illegalHeader_iff {h : BitVec 32} : illegalHeader h ↔
    0xD ≤ (hdrOpc h).toNat ∨ (hdrRsv1 h = true ∨ hdrRsv2 h ≠ 0) ∨ unusedZero (headerUse h) h = false := by
  rw [← Bool.not_eq_true, unusedZero_iff]
  simp only [not_and_or, not_or]
  unfold illegalHeader headerUse
  by_cases hopc : 0xD ≤ (hdrOpc h).toNat
  · simp [hopc]
  generalize (hdrOpc h).toNat = opc at hopc
  cases hdrF h <;> interval_cases opc <;> simp [moveUse, putsAtUse, or_assoc]

theorem decodeFrame_of_illegalHeader (hopc : (hdrOpc f.header).toNat < 0xD) (hillegal : illegalHeader f.header) :
    decodeFrame f = .error .reservedFieldSet ∨ decodeFrame f = .error .unusedFieldSet := by
  obtain ⟨i, hchecked⟩ := decodeFrame_checked hopc
  rw [hchecked]
  exact checkedFrame_illegal ((illegalHeader_iff.mp hillegal).resolve_left (not_le.mpr hopc))

theorem decodeFrame_of_not_illegalHeader (hlegal : ¬ illegalHeader f.header) (hlen : f.payload.length = payloadBytes f.header) :
    ∃ i, decodeFrame f = .ok i := by
  simp only [illegalHeader_iff, not_or, not_le, Bool.not_eq_true, Bool.not_eq_false, ne_eq, not_not] at hlegal
  obtain ⟨hopc, hrsv, hunused⟩ := hlegal
  obtain ⟨i, hchecked⟩ := decodeFrame_checked hopc
  exact ⟨i, hchecked.trans (checkedFrame_ok_iff.mpr ⟨hrsv, hunused, hlen, rfl⟩)⟩

/-! Writing back what was read. -/

/-- A header that passes the checks is the header of its row. -/
theorem eq_header_of_checkedFrame {u : FieldUse} {n : Nat} (h : checkedFrame u n f j = .ok i) :
    f.header = u.header (hdrOpc f.header) false f.header := by
  obtain ⟨⟨hrsv1, hrsv2⟩, hunused, -, -⟩ := checkedFrame_ok_iff.mp h
  obtain ⟨hf, hrow, hcol, hlen, hlow⟩ := unusedZero_iff.mp hunused
  have hflag : hdrF f.header = if u.f then hdrF f.header else false := by
    rcases hf with hf | hf <;> simp [hf]
  simp only [header_ext_iff, FieldUse.header, hdrOpc_header, hdrF_header, hdrRsv1_header, hdrRow_header, hdrRsv2_header, hdrCol_header,
    hdrLen_header, hdrLow_header]
  exact ⟨trivial, hflag, hrsv1, eq_keepIf_of_unused hrow, hrsv2, eq_keepIf_of_unused hcol, eq_keepIf_of_unused hlen,
    eq_keepIf_of_unused hlow⟩

/-- `i` is well formed and written with the header of `f`. -/
def Rewrites (f : Frame) (i : Instr) : Prop := i.wellFormed = true ∧ ∃ payload, encode i = .frame ⟨f.header, payload⟩

/-- What passes the checks of a row is written back, if the row's instruction is written as the row's header. -/
theorem rewrites_of_checkedFrame {u : FieldUse} {n : Nat} {opc : BitVec 4} {payload : List Byte} (h : checkedFrame u n f j = .ok i)
    (hopc : (hdrOpc f.header).toNat = opc.toNat)
    (hj : f.payload.length = n → j.wellFormed = true ∧ encode j = .frame ⟨u.header opc false f.header, payload⟩) : Rewrites f i := by
  have hheader := eq_header_of_checkedFrame h
  obtain ⟨-, -, hlen, rfl⟩ := checkedFrame_ok_iff.mp h
  obtain ⟨hwf, henc⟩ := hj hlen
  rw [BitVec.eq_of_toNat_eq hopc] at hheader
  exact ⟨hwf, payload, hheader ▸ henc⟩

/-- What a frame is read as is written back with the header it was read from. -/
theorem rewrites_of_decodeFrame (h : decodeFrame f = .ok i) : Rewrites f i := by
  have bare : ∀ {opc : BitVec 4} {j}, checkedFrame {} 0 f j = .ok i → encode j = bareFrame opc → j.wellFormed = true →
      (hdrOpc f.header).toNat = opc.toNat → Rewrites f i :=
    fun hc hj hwf hopc => rewrites_of_checkedFrame hc hopc fun _ => ⟨hwf, by rw [hj]; rfl⟩
  have reserved : ∀ {opc : BitVec 4} {j}, encode j = .frame ⟨opc ++ hdrRest f.header, []⟩ → j.wellFormed = true →
      (hdrOpc f.header).toNat = opc.toNat → Rewrites f j := fun hj hwf hopc => ⟨hwf, [], append_hdrRest hopc ▸ hj⟩
  unfold decodeFrame at h
  split at h
  case h_10 hopc => exact rewrites_of_checkedFrame (opc := 0x9) h hopc fun _ => ⟨rfl, rfl⟩
  case h_11 hopc => exact rewrites_of_checkedFrame (opc := 0xA) h hopc fun _ => ⟨rfl, rfl⟩
  case h_12 hopc => -- PUTS, by its F flag
    have hfits : (hdrLen f.header).toNat < 256 := (hdrLen f.header).isLt
    split at h
    case isTrue hF =>
      refine rewrites_of_checkedFrame (opc := 0xB) (payload := f.payload) h hopc fun hlen => ⟨decide_eq_true (by omega), ?_⟩
      simp [encode, hlen, FieldUse.header, putsAtUse, keepIf, hF]
    case isFalse =>
      refine rewrites_of_checkedFrame (opc := 0xB) (payload := f.payload) h hopc fun hlen => ⟨decide_eq_true (by omega), ?_⟩
      simp [encode, hlen, FieldUse.header, keepIf]
  case h_13 hopc => exact rewrites_of_checkedFrame (opc := 0xC) h hopc fun hlen => ⟨decide_eq_true hlen, rfl⟩
  case h_14 hopc | h_15 hopc =>
    cases h
    exact reserved rfl rfl hopc
  case h_16 => -- the opcode left over is 0xF
    cases h
    have hwidth : (hdrOpc f.header).toNat < 16 := (hdrOpc f.header).isLt
    simp only [imp_false] at *
    exact reserved (opc := 0xF) rfl rfl (by change _ = 15; omega)
  all_goals
    rename_i hopc
    exact bare h rfl rfl hopc

theorem header_of_decodeFrame {h k : BitVec 32} {p q : List Byte} (hdecode : decodeFrame ⟨h, p⟩ = .ok i)
    (henc : encode i = .frame ⟨k, q⟩) : h = k := by
  obtain ⟨-, payload, henc'⟩ := rewrites_of_decodeFrame hdecode
  obtain ⟨hheader, -⟩ := Frame.mk.inj (Code.frame.inj (henc'.symm.trans henc))
  exact hheader

/-! Encoding and decoding. -/

/-- Settles O1: `decode_encode`, one case for each constructor. -/
theorem decodeOfEncode : Obligations.DecodeOfEncode := fun _ => decode_encode

/-- Settles O2, by running the decoder on the twelve words. -/
theorem specWordsDecode : Obligations.SpecWordsDecode := by
  unfold Obligations.SpecWordsDecode
  decide

theorem payloadBytes_eq (h : BitVec 32) :
    payloadBytes h = if hdrOpc h = 0xB then (hdrLen h).toNat else if hdrOpc h = 0xC then 8 else 0 := by
  unfold payloadBytes
  split <;> simp_all [← BitVec.toNat_inj]

/-- Settles O5: below the reserved opcodes a frame that is read has passed the check of its payload's length. -/
theorem frameLengthIsFixed : Obligations.FrameLengthIsFixed := by
  intro f i hd
  obtain ⟨hwf, -⟩ := rewrites_of_decodeFrame hd
  refine ⟨hwf, ?_⟩
  by_cases hopc : 0xD ≤ (hdrOpc f.header).toNat
  · exact .inl ⟨_, rfl, hopc⟩
  · obtain ⟨j, hchecked⟩ := decodeFrame_checked (not_le.mp hopc)
    obtain ⟨-, -, hlen, -⟩ := checkedFrame_ok_iff.mp (hchecked ▸ hd)
    exact .inr ⟨hlen, payloadBytes_eq f.header⟩

end Sys2Proof
end

section
/-! PROOFS. The rows of the opcode table (30_encoding.md R58): the match and mask of a row select the headers read as its
instruction. -/

namespace Sys2Proof

variable {u : FieldUse} {f : Bool} {opc : BitVec 4} {h k m p : BitVec 32} {i : Instr}

/-- The row with this opcode, its F flag `f` where F is no operand, has mask `m` and match `p` (30_encoding.md R58). -/
def IsRow (u : FieldUse) (opc : BitVec 4) (f : Bool) (m p : BitVec 32) : Prop :=
  (u.f && f) = false ∧ u.mask = m ∧ header opc f 0 0 0 0 = p

/-- A row selects the headers made of its opcode and operands. -/
theorem IsRow.selects_iff (hr : IsRow u opc f m p) : h &&& m = p ↔ h = u.header opc f h := by
  obtain ⟨hf, rfl, rfl⟩ := hr
  exact and_mask_eq_iff hf opc h

/-- A row selects the headers read as its instruction with the operands in their fields. -/
theorem IsRow.selects_iff_decodeFrame {payload : List Byte} (hr : IsRow u opc f m p) (hwf : i.wellFormed = true)
    (henc : encode i = .frame ⟨u.header opc f h, payload⟩) : h &&& m = p ↔ decodeFrame ⟨h, payload⟩ = .ok i := by
  rw [hr.selects_iff]
  constructor
  · intro hh
    have hdecode := decode_encode hwf
    rwa [henc, ← hh] at hdecode
  · exact fun hdecode => header_of_decodeFrame hdecode henc

/-- Whatever operands a header is read with, the row of the instruction selects it. -/
theorem IsRow.selects_of_decodeFrame {payload payload' : List Byte} (hr : IsRow u opc f m p)
    (hdecode : decodeFrame ⟨h, payload⟩ = .ok i) (henc : encode i = .frame ⟨k, payload'⟩) (hk : k = u.header opc f k) :
    h &&& m = p := by
  rw [hr.selects_iff, header_of_decodeFrame hdecode henc]
  exact hk

theorem bareRow : ∀ opc : BitVec 4, IsRow {} opc false 0xFFFFFFFF (opc.setWidth 32 <<< 28) := by unfold IsRow; decide
theorem moveRow : IsRow moveUse 0x9 false 0xF4C0FFFF 0x90000000 := by unfold IsRow; decide
theorem putcRow : IsRow { low := true } 0xA false 0xFFFFFF00 0xA0000000 := by unfold IsRow; decide
theorem putsRow : IsRow { len := true } 0xB false 0xFFFF00FF 0xB0000000 := by unfold IsRow; decide
theorem putsAtRow : IsRow { row := true, col := true, len := true } 0xB true 0xFCC000FF 0xB8000000 := by unfold IsRow; decide
theorem glyphRow : IsRow { low := true } 0xC false 0xFFFFFF00 0xC0000000 := by unfold IsRow; decide

/-- Settles O3, row by row: a header the row selects is what its instruction is written as, so it is read as that instruction, and
a header read as the instruction is what it is written as. -/
theorem matchAndMaskSelectTheRow : Obligations.MatchAndMaskSelectTheRow := by
  intro h
  have hfits : ∀ text : List Byte, text.length = (hdrLen h).toNat → textFits text = true := fun text hlen =>
    decide_eq_true (by have := (hdrLen h).isLt; omega)
  have hfield : ∀ text : List Byte, text.length = (hdrLen h).toNat → BitVec.ofNat 8 text.length = hdrLen h := fun text hlen => by
    rw [hlen, BitVec.ofNat_toNat, BitVec.setWidth_eq]
  refine ⟨?_, moveRow.selects_iff_decodeFrame rfl rfl, ?_, putcRow.selects_iff_decodeFrame rfl rfl, ?_, fun text hlen => ⟨?_, ?_, ?_⟩,
    fun bitmap hlen => ⟨glyphRow.selects_iff_decodeFrame (decide_eq_true hlen) rfl, ?_⟩⟩
  · simp only [List.forall_mem_cons]
    exact ⟨(bareRow 0).selects_iff_decodeFrame rfl rfl, (bareRow 1).selects_iff_decodeFrame rfl rfl,
      (bareRow 2).selects_iff_decodeFrame rfl rfl, (bareRow 3).selects_iff_decodeFrame rfl rfl,
      (bareRow 4).selects_iff_decodeFrame rfl rfl, (bareRow 5).selects_iff_decodeFrame rfl rfl,
      (bareRow 6).selects_iff_decodeFrame rfl rfl, (bareRow 7).selects_iff_decodeFrame rfl rfl,
      (bareRow 8).selects_iff_decodeFrame rfl rfl, List.forall_mem_nil _⟩
  · rintro ⟨save, row, col, hdecode⟩
    exact moveRow.selects_of_decodeFrame hdecode rfl (by simp [FieldUse.header, moveUse, keepIf])
  · rintro ⟨ch, hdecode⟩
    exact putcRow.selects_of_decodeFrame hdecode rfl (by simp [FieldUse.header, keepIf])
  · exact putsRow.selects_iff_decodeFrame (hfits text hlen) (by rw [encode, hfield text hlen]; rfl)
  · exact putsAtRow.selects_iff_decodeFrame (hfits text hlen) (by rw [encode, hfield text hlen]; rfl)
  · rintro ⟨row, col, hdecode⟩
    exact putsAtRow.selects_of_decodeFrame hdecode rfl (by simp [FieldUse.header, keepIf])
  · rintro ⟨slot8, hdecode⟩
    exact glyphRow.selects_of_decodeFrame hdecode rfl (by simp [FieldUse.header, keepIf])

end Sys2Proof
end

section
/-! PROOFS. Illegal encodings in READY (30_encoding.md R62, 60_exceptions.md R134): a reserved opcode is refused when it runs, any
other illegal header when it is fetched. -/

namespace Sys2Proof.Machine

variable {s : State}

theorem executeIllegal_ready (h : s.phase = .ready) : executeIllegal s = .next (s.refuse .illegalEncoding) := by
  simp [executeIllegal, h, Phase.gate]

/-- Settles O25: each of the three runs as a frame that is no operation. -/
theorem reservedOpcodesAreRefused : Obligations.ReservedOpcodesAreRefused := by
  intro s rest hp i hi
  simp only [List.mem_cons, List.not_mem_nil, or_false] at hi
  rcases hi with rfl | rfl | rfl <;> exact executeIllegal_ready hp

/-- A frame whose header the decoder rejects is refused by the step that takes it. -/
theorem step_rejected_frame {f : Frame} {rest : List Frame} {e : DecodeError} (h : s.readyIdle) (hf : s.frames = f :: rest)
    (hd : decodeFrame f = .error e) (he : e ≠ .payloadLength) : step s = .next ((s.setFrames rest).refuse .illegalEncoding) := by
  obtain ⟨hp, hs, hr⟩ := h
  rw [step_frame hr (by simp [hp]) (statements_nil (.inl hp) hs) hf, fetchFrame_illegal (s := s.setFrames rest) hp hd he]
  rfl

/-- Settles O4: an illegal header is that of a reserved opcode or rejected by the decoder, and any other one is read with the payload
it fixes. -/
theorem illegalHeadersAreRefused : Obligations.IllegalHeadersAreRefused := by
  intro s h payload rest hidle hf
  obtain ⟨hp, hs, hr⟩ := id hidle
  constructor
  · intro hillegal
    by_cases hopc : 0xD ≤ (hdrOpc h).toNat
    · obtain ⟨i, hi, hd⟩ := decodeFrame_reservedOpcode (f := ⟨h, payload⟩) hopc
      rw [step_ready_frame hr hp hs hf hd]
      exact reservedOpcodesAreRefused (s.setFrames rest) (hdrRest h) hp i hi
    · rcases decodeFrame_of_illegalHeader (f := ⟨h, payload⟩) (not_le.mp hopc) hillegal with hd | hd
      · exact step_rejected_frame hidle hf hd (by decide)
      · exact step_rejected_frame hidle hf hd (by decide)
  · intro hlegal hlen
    obtain ⟨i, hd⟩ := decodeFrame_of_not_illegalHeader (f := ⟨h, payload⟩) hlegal hlen
    exact ⟨i, hd, step_ready_frame hr hp hs hf hd⟩

end Sys2Proof.Machine
end

section
/-! PROOFS. What a step adds to the trace (20_memory.md R40, R50; 30_encoding.md R73). -/

namespace Sys2Proof.Machine

variable {s t u : State}

/-- The trace of `t` is that of `s` with events added, the writes among them with RW = 0 and to the bus address of `s`. -/
def State.sendsPlain (s t : State) : Prop :=
  ∃ events, t.trace = s.trace ++ events ∧ ∀ ev ∈ events, ev.plainWrite s.i2cAddr

theorem sendsPlain_of_trace_eq (h : t.trace = s.trace) : s.sendsPlain t :=
  ⟨[], by simp [h], by simp⟩

theorem plainWrite_event {o : Out} (addr : BitVec 7) (h : o.plain) : (o.event addr).plainWrite addr := by
  cases o with
  | w b => exact ⟨rfl, h⟩
  | d ms => exact trivial

/-- The outputs of a run are plain, and its end adds none. -/
theorem sendsPlain_of_ranTo (hr : s.ranTo u) (he : u.EndsAs t) : s.sendsPlain t := by
  obtain ⟨outs, hplain, hu⟩ := hr
  refine ⟨outs.map (Out.event s.i2cAddr), ?_, fun ev hev => ?_⟩
  · rw [he.trace, hu]
    rfl
  · obtain ⟨o, ho, rfl⟩ := List.mem_map.mp hev
    exact plainWrite_event s.i2cAddr (hplain o ho)

theorem sendsPlain_exec {i : Instr} (h : exec i s = .next t) : s.sendsPlain t := by
  rcases exec_cases i s with ⟨-, ⟨-, h'⟩ | ⟨-, r, h'⟩ | ⟨-, r, hr, h'⟩⟩ | ⟨-, outs, hplain, h'⟩ <;> rw [h'] at h <;> cases h
  · exact sendsPlain_of_trace_eq rfl
  · exact sendsPlain_of_trace_eq rfl
  · exact sendsPlain_of_ranTo hr (endsAs_completed r)
  · exact sendsPlain_of_ranTo (ranTo_emit s hplain) (endsAs_finished _)

theorem sendsPlain_fetchStmt {st : Stmt} (h : (fetchStmt st s).outcome = .next t) : s.sendsPlain t := by
  cases st with
  | send w =>
    simp only [fetchStmt] at h
    split at h
    · exact sendsPlain_exec h
    · cases h
  | wait ms =>
    cases h
    exact sendsPlain_of_ranTo (ranTo_delay ms s) (endsAs_finished _)
  | body b =>
    cases h
    exact sendsPlain_of_ranTo (ranTo_initBody b s) (endsAs_finished _)
  | enter p =>
    cases h
    exact sendsPlain_of_trace_eq rfl

theorem sendsPlain_fetchFrame {f : Frame} (h : (fetchFrame f s).outcome = .next t) : s.sendsPlain t := by
  rcases fetchFrame_cases f s with ⟨i, -, hf⟩ | ⟨r, hf⟩ | hf | hf <;> rw [hf] at h
  · exact sendsPlain_exec h
  · cases h
    exact sendsPlain_of_trace_eq rfl
  · cases h
    exact sendsPlain_of_trace_eq rfl
  · cases h

/-- A reset keeps the record of what has been sent (log entry 27). -/
theorem sendsPlain_assertReset {p : Params} (h : assertReset p s = .next t) : s.sendsPlain t := by
  by_cases hp : paramsValid p = true
  · rw [assertReset_of_valid hp] at h
    cases h
    exact sendsPlain_of_trace_eq rfl
  · rw [assertReset_of_not_valid hp] at h
    cases h

/-- Settles O48, along the cases of a step: a statement or a frame sends plain writes, and the others send nothing. -/
theorem traceGrowsWithPlainWrites : Obligations.TraceGrowsWithPlainWrites := by
  intro s t he
  rcases step_cases s with ⟨p, -, hs⟩ | ⟨-, -, hs⟩ | ⟨st, rest, -, -, -, hs⟩ | ⟨f, rest, -, -, -, -, hs⟩ | ⟨-, -, -, -, hs⟩ <;>
    rw [hs] at he
  · exact sendsPlain_assertReset he
  · cases he
    exact sendsPlain_of_trace_eq rfl
  · exact sendsPlain_fetchStmt (s := s.setSeq rest) he
  · exact sendsPlain_fetchFrame (s := s.setFrames rest) he
  · cases he
    exact sendsPlain_of_trace_eq rfl

end Sys2Proof.Machine
end

section
/-! PROOFS. What the assembler makes of a line (30_encoding.md R63, R79; log entry 24). -/

namespace Sys2Proof.Machine

variable {i : Instr} {α β ε : Type}

theorem bind_eq_ok_iff {x : Except ε α} {g : α → Except ε β} {b : β} : x.bind g = .ok b ↔ ∃ a, x = .ok a ∧ g a = .ok b := by
  cases x <;> simp [Except.bind]

theorem map_eq_ok_iff {x : Except ε α} {g : α → β} {b : β} : x.map g = .ok b ↔ ∃ a, x = .ok a ∧ g a = b := by
  cases x <;> simp [Except.map]

theorem asmCodes_length {codes : List Nat} {bytes : List Byte} (h : asmCodes codes = .ok bytes) : bytes.length = codes.length := by
  induction codes generalizing bytes with
  | nil =>
    cases h
    rfl
  | cons n rest ih =>
    obtain ⟨b, -, hb⟩ := bind_eq_ok_iff.mp h
    obtain ⟨bs, hbs, rfl⟩ := map_eq_ok_iff.mp hb
    exact congrArg (· + 1) (ih hbs)

theorem textFits_of_asmText {text : List Nat} {bytes : List Byte} (h : asmText text = .ok bytes) : textFits bytes = true := by
  unfold asmText at h
  split at h
  case isTrue hfits => exact decide_eq_true ((asmCodes_length h).trans_le hfits)
  case isFalse => cases h

theorem asmText_of_tooLong {text : List Nat} (h : 255 < text.length) : asmText text = .error .stringTooLong :=
  if_neg (not_le.mpr h)

theorem encodable_of_asmPutsAt {row col : Nat} {text : List Nat} (h : asmPutsAt row col text = .ok i) :
    i.wellFormed = true ∧ isFrame i := by
  obtain ⟨p, -, hp⟩ := bind_eq_ok_iff.mp h
  obtain ⟨bytes, hbytes, rfl⟩ := map_eq_ok_iff.mp hp
  exact ⟨textFits_of_asmText hbytes, _, rfl⟩

/-- Texts and bitmaps have been checked for their length, and every other operand fits its field. -/
theorem encodable_of_assemble {l : AsmLine} (h : assemble l = .ok i) : i.wellFormed = true ∧ isFrame i := by
  cases l with
  | move row col | moveS row col =>
    obtain ⟨p, -, rfl⟩ := map_eq_ok_iff.mp h
    exact ⟨rfl, _, rfl⟩
  | putc ch =>
    obtain ⟨b, -, rfl⟩ := map_eq_ok_iff.mp h
    exact ⟨rfl, _, rfl⟩
  | puts text =>
    obtain ⟨bytes, hbytes, rfl⟩ := map_eq_ok_iff.mp h
    exact ⟨textFits_of_asmText hbytes, _, rfl⟩
  | putsAt row col text | printAt row col text => exact encodable_of_asmPutsAt h
  | glyph slot bitmap =>
    obtain ⟨b, -, hb⟩ := bind_eq_ok_iff.mp h
    split at hb
    case isTrue hlen =>
      obtain ⟨bytes, hbytes, rfl⟩ := map_eq_ok_iff.mp hb
      exact ⟨decide_eq_true ((asmCodes_length hbytes).trans hlen), _, rfl⟩
    case isFalse => cases hb
  | _ => -- the lines without operands
    cases h
    exact ⟨rfl, _, rfl⟩

/-- Settles O55: the lines are gone through once, and the pseudo-operations are equal to what R79 says by definition. -/
theorem assemblerMakesEncodableOperations : Obligations.AssemblerMakesEncodableOperations :=
  ⟨fun _ _ => encodable_of_assemble, rfl, rfl, fun _ _ _ => rfl, fun _ hlong => congrArg (Except.map Instr.puts) (asmText_of_tooLong hlong)⟩

end Sys2Proof.Machine
end

section
/-! PROOFS. The bytes of the CommandEncoder (40_command_encoder.md R80 to R86). -/

namespace Sys2Proof.Machine

/-- The flags stand in the three low bits, the cursor's above the blink's (90_conflicts.md C1). -/
theorem encDisplayControl_eq_append :
    ∀ d c b, encDisplayControl d c b = 0b00001#5 ++ BitVec.ofBool d ++ BitVec.ofBool c ++ BitVec.ofBool b := by decide

theorem encDdram_eq_append : ∀ addr : BitVec 7, encDdram addr = 1#1 ++ addr := by decide

/-- Only the slot modulo 8 is used, so the eight slots are all there is to check. -/
theorem encCgram_eq_append (slot : Nat) : encCgram slot = 0b01#2 ++ BitVec.ofNat 3 (slot % 8) ++ 0#3 := by
  have h : ∀ k, k < 8 → CGRAM ||| (BitVec.ofNat 8 k <<< 3) = 0b01#2 ++ BitVec.ofNat 3 k ++ 0#3 := by decide
  exact h (slot % 8) (Nat.mod_lt slot (by decide))

theorem functionSetByte_eq_ite : ∀ twoLines, functionSetByte twoLines = if twoLines then 0x28 else 0x20 := by decide

theorem encFunctionSet_eq_ite (n : Nat) : encFunctionSet n = if n > 1 then 0x28 else 0x20 := by
  simp only [encFunctionSet, functionSetByte_eq_ite, decide_eq_true_eq, gt_iff_lt]

/-- Settles O7: a lemma for each function with operands; the bytes of the others are constants. -/
theorem encoderBytes : Obligations.EncoderBytes :=
  ⟨rfl, rfl, encDisplayControl_eq_append, encDdram_eq_append, encCgram_eq_append, encFunctionSet_eq_ite, rfl, rfl⟩

end Sys2Proof.Machine
end

section
/-! PROOFS. The cursor functions and the display address (41_cursor_state.md R90 to R96). -/

namespace Sys2Proof.Machine

variable {s : State}

/-! The display address. -/

/-- The six bits of the mask are all there are, and the two row bits pick the summands. -/
theorem displayAddress_eq (row : BitVec 2) (col : BitVec 6) :
    displayAddress row col =
      col.setWidth 7 + (if row.toNat % 2 = 1 then 0x40 else 0) + (if row.toNat / 2 = 1 then 0x14 else 0) := by
  have hmask : col &&& 0x3F = col := BitVec.and_allOnes
  have hbit0 : row.getLsbD 0 = decide (row.toNat % 2 = 1) := Nat.testBit_zero _
  have hbit1 : row.getLsbD 1 = decide (row.toNat / 2 = 1) := by
    rw [BitVec.getLsbD, Nat.testBit_eq_decide_div_mod_eq, Nat.mod_eq_of_lt (by omega), pow_one]
  simp only [displayAddress, hmask, hbit0, hbit1, decide_eq_true_eq]

/-- Settles O9: the greatest sum is 39 + 0x40 + 0x14 = 0x7B, so the 7-bit sum does not wrap. -/
theorem displayAddressFormula : Obligations.DisplayAddressFormula := by
  intro row col hcol
  rw [displayAddress_eq]
  have hwidth : (col.setWidth 7).toNat = col.toNat := BitVec.toNat_setWidth_of_le (by decide)
  simp only [BitVec.toNat_add, apply_ite BitVec.toNat, BitVec.ofNat_eq_ofNat, BitVec.toNat_ofNat, hwidth]
  split_ifs <;> omega

/-! What newline and advance do. -/

theorem nextRow_toNat {n : BitVec 3} {r : BitVec 2} (hn : n.toNat ≤ MAX_LINES) (hr : r.toNat < n.toNat) :
    (nextRow n r).toNat = if r.toNat + 1 = n.toNat then 0 else r.toNat + 1 := by
  simp only [MAX_LINES] at hn
  unfold nextRow
  split
  · rfl
  · rw [BitVec.toNat_ofNat, Nat.mod_eq_of_lt (by omega)]

theorem nextRow_toNat_of_inBounds (h : s.inBounds) :
    (nextRow s.numLines s.cur.row).toNat = if s.cur.row.toNat + 1 = s.numLines.toNat then 0 else s.cur.row.toNat + 1 := by
  obtain ⟨hlines, -, ⟨hrow, -⟩, -⟩ := h
  exact nextRow_toNat hlines hrow

/-- The column after one within the geometry fits its six bits. -/
theorem nextColumn_toNat (h : s.inBounds) : (BitVec.ofNat 6 (s.cur.col.toNat + 1)).toNat = s.cur.col.toNat + 1 := by
  obtain ⟨-, hcolumns, ⟨-, hcol⟩, -⟩ := h
  simp only [MAX_COLS] at hcolumns
  rw [BitVec.toNat_ofNat, Nat.mod_eq_of_lt (by omega)]

theorem atLastColumn_iff : atLastColumn s = true ↔ s.cur.col.toNat + 1 = s.numColumns.toNat := beq_iff_eq

theorem advance_of_lastColumn (h : s.cur.col.toNat + 1 = s.numColumns.toNat) : advance s = (true, newline s) :=
  if_pos (atLastColumn_iff.mpr h)

theorem advance_of_not_lastColumn (h : s.cur.col.toNat + 1 ≠ s.numColumns.toNat) :
    advance s = (false, s.setCur ⟨s.cur.row, BitVec.ofNat 6 (s.cur.col.toNat + 1)⟩) :=
  if_neg (mt atLastColumn_iff.mp h)

/-- Settles O11: the row is that of `nextRow`, which keeps to its two bits. -/
theorem newlineGoesToTheNextLine : Obligations.NewlineGoesToTheNextLine :=
  fun _ h => ⟨_, rfl, rfl, nextRow_toNat_of_inBounds h⟩

/-- Settles O10: at the last column advance is a newline, elsewhere the column counts up within its six bits. -/
theorem advanceCountsAndWraps : Obligations.AdvanceCountsAndWraps := by
  intro s h
  by_cases hlast : s.cur.col.toNat + 1 = s.numColumns.toNat
  · obtain ⟨p, hp, hposition⟩ := newlineGoesToTheNextLine s h
    exact ⟨true, p, hp ▸ advance_of_lastColumn hlast, fun _ => ⟨rfl, hposition⟩, absurd hlast⟩
  · exact ⟨false, _, advance_of_not_lastColumn hlast, (absurd · hlast), fun _ => ⟨rfl, rfl, nextColumn_toNat h⟩⟩

/-! The bounds: newline and advance move the cursor where a character moves it. -/

theorem newline_eq_setCur_posAfter : newline s = s.setCur (s.posAfter NEWLINE) := by
  rw [State.posAfter, if_pos (.inl rfl), newline]

theorem advance_state_eq_setCur_posAfter {ch : Byte} (h : ch ≠ NEWLINE) : (advance s).2 = s.setCur (s.posAfter ch) := by
  by_cases hlast : atLastColumn s = true
  · rw [State.posAfter, if_pos (.inr hlast), advance, if_pos hlast, newline]
  · rw [State.posAfter, if_neg (not_or.mpr ⟨h, hlast⟩), advance, if_neg hlast]

theorem inBounds_newline (h : s.inBounds) : (newline s).inBounds := by
  rw [newline_eq_setCur_posAfter]
  exact inBounds_setCur h (within_posAfter h NEWLINE)

theorem inBounds_advance (h : s.inBounds) : (advance s).2.inBounds := by
  have hspace : (0x20 : Byte) ≠ NEWLINE := by decide
  rw [advance_state_eq_setCur_posAfter hspace]
  exact inBounds_setCur h (within_posAfter h 0x20)

/-- Settles O12, a lemma for each function. -/
theorem cursorFunctionsKeepBounds : Obligations.CursorFunctionsKeepBounds :=
  fun _ _ h => ⟨inBounds_advance h, inBounds_newline h, inBounds_restore h,
    fun hp => ⟨inBounds_setCur h hp, inBounds_saveAndMove h hp⟩⟩

end Sys2Proof.Machine
end

section
/-! PROOFS. The layout of the expander byte (42_nibble_transport.md R101; 30_encoding.md R72, R73, R75). -/

namespace Sys2Proof.Machine

/-- Each part stands above the widths of the parts to its right. -/
theorem expanderBits_toNat (n : Nibble) (bl e rs : Bool) :
    (expanderBits n bl e rs).toNat = n.toNat * 16 + bl.toNat * 8 + e.toNat * 4 + rs.toNat := by
  simp only [expanderBits, append_toNat, BitVec.toNat_ofBool, BitVec.toNat_ofNat]
  omega

theorem backlightBits_toNat (bl : Bool) : (backlightBits bl).toNat = bl.toNat * 8 := by
  rw [backlightBits, expanderBits_toNat]
  simp

/-- Settles O8: the byte of a state is that of its backlight flag. -/
theorem expanderByteLayout : Obligations.ExpanderByteLayout :=
  have layout (n : Nibble) (bl e rs : Bool) := And.intro (expanderBits_toNat n bl e rs) (expanderBits_plain n bl e rs)
  ⟨fun s n rs e => layout n s.backlight e rs, layout, backlightBits_toNat, rfl⟩

end Sys2Proof.Machine
end

section
/-! PROOFS. A word that is read as an instruction is the word the instruction is written as (30_encoding.md R65 to R75): the bits the
decoder checks and the operands it reads off make up the whole word. -/

namespace Sys2Proof

open Machine

theorem encDisplayControl_operands :
    ∀ b : Byte, b &&& 0xF8 = ON_CTRL → encDisplayControl (b.getLsbD 2) (b.getLsbD 1) (b.getLsbD 0) = b := by decide

theorem functionSetByte_operand : ∀ b : Byte, b &&& 0xF7 = FUNCTION → functionSetByte (b.getLsbD 3) = b := by decide

theorem encCgram_operand : ∀ b : Byte, b &&& 0xC7 = CGRAM → encCgram (b.extractLsb' 3 3).toNat = b := by decide

theorem encDdram_operand : ∀ b : Byte, b &&& 0x80 = DDRAM → encDdram (b.extractLsb' 0 7) = b := by decide

theorem expanderBits_operands : ∀ b : Byte, b.getLsbD 1 = false →
    expanderBits (highNibble b) (b.getLsbD 3) (b.getLsbD 2) (b.getLsbD 0) = b := by decide

theorem backlightBits_operand : ∀ b : Byte, b &&& 0xF7 = 0 → backlightBits (b.getLsbD 3) = b := by decide

theorem encode_of_decodeCommand {b : Byte} {i : Instr} (h : decodeCommand b = .ok i) : encode i = .word (.command b) := by
  have word {c : Byte} (hc : c = b) : Code.word (.command c) = .word (.command b) := congrArg (Code.word ∘ BusWord.command) hc
  unfold decodeCommand at h
  split_ifs at h with hclr hhome hentry hdisplay hfunction hcgram hddram <;> cases h
  · exact word hclr.symm
  · exact word hhome.symm
  · exact word hentry.symm
  · exact word (encDisplayControl_operands b hdisplay)
  · exact word (functionSetByte_operand b hfunction)
  · exact word (encCgram_operand b hcgram)
  · exact word (encDdram_operand b hddram)

theorem encode_of_decodeWord {w : BusWord} {i : Instr} (h : decodeWord w = .ok i) : encode i = .word w := by
  cases w <;> simp only [decodeWord] at h
  case command b => exact encode_of_decodeCommand h
  case data b => cases h; rfl
  case initNibble n =>
    split_ifs at h with hreset hfourBit <;> cases h
    · rw [hreset]; rfl
    · rw [hfourBit]; rfl
  case nibbleByte b =>
    split_ifs at h with hrw
    cases h
    exact congrArg (Code.word ∘ BusWord.nibbleByte) (expanderBits_operands b (Bool.eq_false_of_not_eq_true hrw))
  case idleByte b =>
    split_ifs at h with hidle
    cases h
    rw [hidle]; rfl
  case backlightByte b =>
    split_ifs at h with hbacklight
    cases h
    exact congrArg (Code.word ∘ BusWord.backlightByte) (backlightBits_operand b hbacklight)

end Sys2Proof
end

section
/-! PROOFS. The transport (42_nibble_transport.md R100 to R108): the function that sends a word, what it sends in a calm environment and
at a failing write, and that the rows of Parts B and C run it (log entry 14). -/

namespace Sys2Proof.Machine

variable {s : State} {w : BusWord} {i : Instr} {outs : List Out}

/-! The function that sends a word. -/

/-- The transport function of a word's format. -/
def sendWord : BusWord → State → Run
  | .command b => writeCommand b
  | .data b => writeData b
  | .initNibble n => writeInitNibble n
  | .nibbleByte b => busWrite b
  | .idleByte b => busWrite b
  | .backlightByte b => busWrite b

theorem sendWord_eq (w : BusWord) (s : State) : sendWord w s = emit (outWord s.backlight w) s := by
  cases w with
  | command b => exact writeCommand_eq b s
  | data b => exact writeData_eq b s
  | initNibble n => exact writeInitNibble_eq n s
  | nibbleByte b | idleByte b | backlightByte b => exact busWrite_eq b s

theorem exec_of_encode_word (h : encode i = .word w) (s : State) : exec i s = finish (sendWord w s) := by
  cases i <;> cases h -- a frame is no word
  all_goals rfl

theorem exec_of_decodeWord (h : decodeWord w = .ok i) (s : State) : exec i s = finish (sendWord w s) :=
  exec_of_encode_word (encode_of_decodeWord h) s

/-- Settles O6: an instruction sends the word it is written as, and that is the word it was read from. -/
theorem decodedWordSendsItself : Obligations.DecodedWordSendsItself := by
  intro w i s h
  rw [exec_of_decodeWord h]
  cases w <;> rfl

/-! What goes out. -/

theorem outCommand_of_le {cmd : Byte} (h : cmd.toNat ≤ 3) (bl : Bool) : outCommand bl cmd = outByte bl false cmd ++ [.d 5] := by
  rw [outCommand, if_pos h]

theorem outCommand_of_lt {cmd : Byte} (h : 3 < cmd.toNat) (bl : Bool) : outCommand bl cmd = outByte bl false cmd := by
  rw [outCommand, if_neg (Nat.not_le.mpr h), List.append_nil]

/-- The settle delay comes after the four writes, so a failing write leaves it out. -/
theorem upToWrite_outCommand {k : Nat} (hk : k < 4) (bl : Bool) (cmd : Byte) :
    upToWrite k (outCommand bl cmd) = (outByte bl false cmd).take (k + 1) := by
  rw [outCommand, upToWrite_append_left _ hk, upToWrite_eq_take rfl]

/-- The only wait of a word is after its last write. -/
theorem delaysIn_upToWrite_outWord {bl : Bool} {k : Nat} (hk : k < writesIn (outWord bl w)) :
    delaysIn (upToWrite k (outWord bl w)) = 0 := by
  cases w with
  | command b => rw [outWord, outCommand, upToWrite_append_left _ (by simpa [outWord] using hk), delaysIn_upToWrite rfl]
  | data b | initNibble n | nibbleByte b | idleByte b | backlightByte b => exact delaysIn_upToWrite rfl k

theorem sendWord_calm (ho : outWord s.backlight w = outs) (hc : s.calm (writesIn outs) (delaysIn outs)) :
    sendWord w s = .done (s.emitted outs) := by
  subst ho
  rw [sendWord_eq, emit_calm hc]

theorem sendWord_fails (ho : outWord s.backlight w = outs) {k : Nat} {e : BusFault} (hk : k < writesIn outs)
    (hf : s.failsAt k e 0) : sendWord w s = .raised e (s.emitted (upToWrite k outs)) := by
  subst ho
  rw [sendWord_eq, emit_fails hk (by rwa [delaysIn_upToWrite_outWord hk])]

theorem sendWord_fails_take (ho : outWord s.backlight w = outs) (hd : delaysIn outs = 0) {k : Nat} {e : BusFault}
    (hk : k < writesIn outs) (hf : s.failsAt k e 0) : sendWord w s = .raised e (s.emitted (outs.take (k + 1))) := by
  rw [sendWord_fails ho hk hf, upToWrite_eq_take hd]

/-- Settles O14: WriteCommand sends a command word. -/
theorem writeCommandOutputs : Obligations.WriteCommandOutputs := by
  intro cmd s hi lo bytes
  refine ⟨fun hlong hcalm => ?_, fun hshort hcalm => ?_, fun k e hk hfails => ?_⟩
  · exact sendWord_calm (w := .command cmd) (outCommand_of_lt hlong s.backlight) hcalm
  · exact sendWord_calm (w := .command cmd) (outCommand_of_le hshort s.backlight) hcalm
  · have hk' : k < writesIn (outCommand s.backlight cmd) := by rwa [writesIn_outCommand]
    exact upToWrite_outCommand hk s.backlight cmd ▸ sendWord_fails (w := .command cmd) rfl hk' hfails

/-- Settles O15: WriteData sends a data word, whose outputs have no delay. -/
theorem writeDataOutputs : Obligations.WriteDataOutputs := fun d _ =>
  ⟨sendWord_calm (w := .data d) rfl, fun _ _ hk hf => sendWord_fails_take (w := .data d) rfl rfl hk hf⟩

/-- An initialization nibble is sent with the backlight bit 0. -/
theorem outNibble_init : ∀ n : Nibble, outNibble false false n = [.w (n ++ 0x4#4), .w (n ++ 0x0#4)] := by decide

theorem backlightBits_eq_ite : ∀ bl, backlightBits bl = if bl then 0x08 else 0x00 := by decide

/-- Settles O16: the two functions send an initialization nibble and a backlight byte. -/
theorem initNibbleAndBacklightOutputs : Obligations.InitNibbleAndBacklightOutputs := by
  intro n s bytes
  have hnibble : outWord s.backlight (.initNibble n) = bytes := outNibble_init n
  have hlight : outWord s.backlight (.backlightByte (backlightBits s.backlight)) = [.w (if s.backlight then 0x08 else 0x00)] :=
    congrArg (fun b => [Out.w b]) (backlightBits_eq_ite s.backlight)
  exact ⟨sendWord_calm hnibble, fun _ _ hk hf => sendWord_fails_take hnibble rfl hk hf,
    sendWord_calm hlight, fun _ hf => sendWord_fails_take hlight rfl Nat.one_pos hf⟩

/-! The rows of Parts B and C. -/

/-- The row sends these outputs and does nothing else; at a failing write the fault is taken. -/
def SendsAs (s : State) (i : Instr) (outs : List Out) : Prop :=
  (s.calm (writesIn outs) (delaysIn outs) → exec i s = .next (s.emitted outs)) ∧
  (∀ k e, k < writesIn outs → s.failsAt k e 0 → exec i s = .next (takeFault e (s.emitted (upToWrite k outs))))

theorem sendsAs_of_decodeWord (h : decodeWord w = .ok i) (ho : outWord s.backlight w = outs) : SendsAs s i outs := by
  unfold SendsAs
  rw [exec_of_decodeWord h]
  refine ⟨fun hcalm => ?_, fun k e hk hfails => ?_⟩
  · rw [sendWord_calm ho hcalm]; rfl
  · rw [sendWord_fails ho hk hfails]; rfl

/-- A command byte above 3 goes out without a delay. -/
theorem sendsAs_of_decodeCommand {cmd : Byte} (h : decodeCommand cmd = .ok i) (hcmd : 3 < cmd.toNat) :
    SendsAs s i (outByte s.backlight false cmd) :=
  sendsAs_of_decodeWord (w := .command cmd) h (outCommand_of_lt hcmd s.backlight)

theorem encCgram_toNat_gt (slot : Nat) : 3 < (encCgram slot).toNat := by
  rw [encCgram_eq_append, append_toNat, append_toNat]
  simp only [BitVec.toNat_ofNat]
  omega

theorem functionSetByte_toNat_gt : ∀ n, 3 < (functionSetByte n).toNat := by decide

/-- Settles O26: of the command bytes only CLR and HOME are at most 3. -/
theorem commandWordsSend : Obligations.CommandWordsSend := by
  intro s d c b n slot addr
  have clr : SendsAs s .cmdClr (outByte s.backlight false 0x01 ++ [.d 5]) := sendsAs_of_decodeWord (w := .command CLR) rfl rfl
  have home : SendsAs s .cmdHome (outByte s.backlight false 0x02 ++ [.d 5]) := sendsAs_of_decodeWord (w := .command HOME) rfl rfl
  have entryMode : SendsAs s .cmdEntryModeInc (outByte s.backlight false 0x06) := sendsAs_of_decodeCommand rfl (by decide)
  have display := sendsAs_of_decodeCommand (s := s) (decodeCommand_encDisplayControl d c b)
    (Nat.lt_of_lt_of_le (by decide) (encDisplayControl_toNat d c b))
  have function := sendsAs_of_decodeCommand (s := s) (decodeCommand_functionSetByte n) (functionSetByte_toNat_gt n)
  have cgram := sendsAs_of_decodeCommand (s := s) (decodeCommand_encCgram slot) (encCgram_toNat_gt slot.toNat)
  have ddram := sendsAs_of_decodeCommand (s := s) (decodeCommand_encDdram addr)
    (Nat.lt_of_lt_of_le (by decide) (encDdram_toNat addr))
  rw [functionSetByte_eq_ite] at function
  exact List.forall_iff_forall_mem.mp ⟨clr, home, entryMode, display, function, cgram, ddram⟩

/-- Settles O27: each row is read from its word. -/
theorem dataAndNibbleWordsSend : Obligations.DataAndNibbleWordsSend := by
  intro s d
  have data : SendsAs s (.dataByte d) (outByte s.backlight true d) := sendsAs_of_decodeWord (w := .data d) rfl rfl
  have reset : SendsAs s .initNibbleReset [.w 0x34, .w 0x30] := sendsAs_of_decodeWord (w := .initNibble 0x3) rfl rfl
  have fourBit : SendsAs s .initNibbleFunction [.w 0x24, .w 0x20] := sendsAs_of_decodeWord (w := .initNibble 0x2) rfl rfl
  exact List.forall_iff_forall_mem.mp ⟨data, reset, fourBit⟩

/-- Of a single write, all has gone out when it fails. -/
theorem SendsAs.singleWrite {b : Byte} (h : SendsAs s i [.w b]) :
    (s.calm 1 0 → exec i s = .next (s.emitted [.w b])) ∧
    (∀ e, s.failsAt 0 e 0 → exec i s = .next (takeFault e (s.emitted [.w b]))) :=
  ⟨h.1, fun e => h.2 0 e Nat.one_pos⟩

/-- Settles O28: each row is read from its word, which goes out in one write. -/
theorem expanderWordsSend : Obligations.ExpanderWordsSend := by
  intro s nibble bl e rs
  have nibbleByte : SendsAs s (.expanderNibbleByte nibble bl e rs) [.w (expanderBits nibble bl e rs)] :=
    sendsAs_of_decodeWord (decodeWord_expanderBits nibble bl e rs) rfl
  have idle : SendsAs s .expanderIdle [.w 0x00] := sendsAs_of_decodeWord (w := .idleByte IDLE) rfl rfl
  have light : SendsAs s (.expanderBacklight bl) [.w (backlightBits bl)] :=
    sendsAs_of_decodeWord (decodeWord_backlightBits bl) rfl
  rw [backlightBits_eq_ite] at light
  exact List.forall_iff_forall_mem.mp ⟨nibbleByte.singleWrite, idle.singleWrite, light.singleWrite⟩

end Sys2Proof.Machine
end

section
/-! PROOFS. The cursor after a printed string (43_driver_ops.md R123, R124; 41_cursor_state.md R92): positions counted along the lines,
and around the display. -/

namespace Sys2Proof.Machine

variable {s : State}

/-- The number of a position, counted along the lines from the home position. -/
def State.linear (s : State) (p : Pos) : Nat := p.row.toNat * s.numColumns.toNat + p.col.toNat

theorem linear_lt {p : Pos} (h : s.within p) : s.linear p < s.numLines.toNat * s.numColumns.toNat := by
  obtain ⟨hrow, hcol⟩ := h
  calc s.linear p < p.row.toNat * s.numColumns.toNat + s.numColumns.toNat := Nat.add_lt_add_left hcol _
    _ = (p.row.toNat + 1) * s.numColumns.toNat := (Nat.succ_mul _ _).symm
    _ ≤ s.numLines.toNat * s.numColumns.toNat := Nat.mul_le_mul_right _ hrow

theorem inBounds_typed (h : s.inBounds) (ch : Byte) : (s.typed ch).inBounds :=
  inBounds_setCur (inBounds_emitted _ h) (within_posAfter h ch)

theorem inBounds_typedAll (h : s.inBounds) (text : List Byte) : (s.typedAll text).inBounds := by
  induction text generalizing s with
  | nil => exact h
  | cons ch rest ih => exact ih (inBounds_typed h ch)

/-- At the last column of the last line the count goes back to 0; everywhere else it goes up by one. -/
theorem linear_posAfter (h : s.inBounds) {ch : Byte} (hch : ch ≠ NEWLINE) :
    s.linear (s.posAfter ch) = (s.linear s.cur + 1) % (s.numLines.toNat * s.numColumns.toNat) := by
  have hlt := linear_lt (within_posAfter h ch)
  by_cases hlast : s.cur.col.toNat + 1 = s.numColumns.toNat
  · have hnext : s.linear s.cur + 1 = (s.cur.row.toNat + 1) * s.numColumns.toNat := by
      rw [State.linear, Nat.add_assoc, hlast, Nat.succ_mul]
    have hpos : s.linear (s.posAfter ch) = (nextRow s.numLines s.cur.row).toNat * s.numColumns.toNat := by
      rw [State.posAfter, if_pos (.inr (atLastColumn_iff.mpr hlast))]
      rfl
    rw [hpos, nextRow_toNat_of_inBounds h] at hlt ⊢
    rw [hnext]
    split_ifs at hlt ⊢ with hline
    · rw [hline, Nat.mod_self, Nat.zero_mul]
    · exact (Nat.mod_eq_of_lt hlt).symm
  · have hpos : s.linear (s.posAfter ch) = s.linear s.cur + 1 := by
      rw [State.posAfter, if_neg (not_or.mpr ⟨hch, mt atLastColumn_iff.mp hlast⟩), State.linear, nextColumn_toNat h]
      rfl
    rw [hpos] at hlt ⊢
    exact (Nat.mod_eq_of_lt hlt).symm

/-- Settles O13, by induction on the text: each character keeps the bounds and counts the position on by one. -/
theorem printingMovesByTheLength : Obligations.PrintingMovesByTheLength := by
  intro s text h hn
  refine ⟨inBounds_typedAll h text, ?_⟩
  change s.linear (s.typedAll text).cur = (s.linear s.cur + text.length) % _
  induction text generalizing s with
  | nil =>
    obtain ⟨-, -, hcur, -⟩ := h
    exact (Nat.mod_eq_of_lt (linear_lt hcur)).symm
  | cons ch rest ih =>
    obtain ⟨hch, hrest⟩ := List.ne_and_not_mem_of_not_mem_cons hn
    calc s.linear ((s.typed ch).typedAll rest).cur
        = (s.linear (s.posAfter ch) + rest.length) % (s.numLines.toNat * s.numColumns.toNat) :=
          ih (s.typed ch) (inBounds_typed h ch) hrest
      _ = (s.linear s.cur + (rest.length + 1)) % (s.numLines.toNat * s.numColumns.toNat) := by
          rw [linear_posAfter h (Ne.symm hch), Nat.mod_add_mod, Nat.add_assoc, Nat.add_comm 1]

end Sys2Proof.Machine
end

section
/-! PROOFS. The operations that send one list of outputs (43_driver_ops.md R113 to R122, R126), their registers written before it or, for
CLEAR, after it: in READY, the state they complete in and the one a failing write leaves. -/

namespace Sys2Proof.Machine

variable {s t w : State} {outs : List Out} {inR : State → Bool} {body : State → Run} {k : Nat} {e : BusFault}

/-! The end of an operation in READY. -/

theorem execute_done (hp : s.phase = .ready) (hr : inR s = true) (h : body s = .done t) :
    execute inR body s = .next t.succeeded := by
  rw [execute_ready hp hr, h, completed_done]

theorem execute_raised (hp : s.phase = .ready) (hr : inR s = true) (h : body s = .raised e t) :
    execute inR body s = .next (t.failed e) := by
  rw [execute_ready hp hr, h, completed_raised]

/-! Outputs without a delay, an address command among them. -/

theorem emit_calm_of_noDelay (hd : delaysIn outs = 0) (h : s.calm (writesIn outs) 0) : emit outs s = .done (s.emitted outs) :=
  emit_calm (hd ▸ h)

theorem emit_fails_of_noDelay (hd : delaysIn outs = 0) (hk : k < writesIn outs) (h : s.failsAt k e 0) :
    emit outs s = .raised e (s.emitted (upToWrite k outs)) :=
  emit_fails hk (by rwa [delaysIn_upToWrite hd])

/-- What the environment does is read off the two ports. -/
theorem calm_congr {n d : Nat} (hbus : t.bus = s.bus) (htimer : t.timer = s.timer) (h : s.calm n d) : t.calm n d := by
  rwa [State.calm, hbus, htimer]

theorem failsAt_congr {d : Nat} (hbus : t.bus = s.bus) (htimer : t.timer = s.timer) (h : s.failsAt k e d) : t.failsAt k e d :=
  ⟨calm_congr hbus htimer h.1, hbus ▸ h.2⟩

/-- An address command is four writes and no delay. -/
theorem emit_address_calm (bl : Bool) (p : Pos) (h : s.calm 4 0) : emit (outAddress bl p) s = .done (s.emitted (outAddress bl p)) :=
  emit_calm_of_noDelay (delaysIn_outAddress bl p) (by rwa [writesIn_outAddress])

theorem emit_address_fails (bl : Bool) (p : Pos) (hk : k < 4) (h : s.failsAt k e 0) :
    emit (outAddress bl p) s = .raised e (s.emitted (upToWrite k (outAddress bl p))) :=
  emit_fails_of_noDelay (delaysIn_outAddress bl p) (by rwa [writesIn_outAddress]) h

/-! Registers first, then the outputs. -/

/-- From `s` the operation comes to `w`, its registers written, and then makes these `n` writes: it completes after them, and ends with
the fault at a failing write. -/
def WritesThenSends (s : State) (o : Host.Outcome State Fault Refusal) (w : State) (outs : List Out) (n : Nat) : Prop :=
  (s.calm n 0 → o = .next (w.emitted outs).succeeded) ∧
  (∀ k e, k < n → s.failsAt k e 0 → o = .next ((w.emitted (upToWrite k outs)).failed e))

theorem writesThenSends_execute {n : Nat} (hp : s.phase = .ready) (hr : inR s = true) (hb : body s = emit outs w)
    (hw : writesIn outs = n) (hd : delaysIn outs = 0) (hbus : w.bus = s.bus) (htimer : w.timer = s.timer) :
    WritesThenSends s (execute inR body s) w outs n := by
  subst hw
  refine ⟨fun hcalm => execute_done hp hr ?_, fun k e hk hfails => execute_raised hp hr ?_⟩
  · rw [hb, emit_calm_of_noDelay hd (calm_congr hbus htimer hcalm)]
  · rw [hb, emit_fails_of_noDelay hd hk (failsAt_congr hbus htimer hfails)]

/-- The display-control command has no settle delay, so it is cut by counting. -/
theorem outFlags_eq (s : State) : outFlags s = outByte s.backlight false (encDisplayControl s.display s.cursor s.blink) :=
  outCommand_of_lt (Nat.lt_of_lt_of_le (by decide) (encDisplayControl_toNat s.display s.cursor s.blink)) s.backlight

theorem flagOperation_execute (hp : s.phase = .ready) (hb : body s = emit (outFlags w) w) (hbus : w.bus = s.bus)
    (htimer : w.timer = s.timer) :
    (s.calm 4 0 → execute noCoordinates body s = .next (w.emitted (outFlags w)).succeeded) ∧
    (∀ k e, k < 4 → s.failsAt k e 0 →
      execute noCoordinates body s = .next ((w.emitted ((outFlags w).take (k + 1))).failed e)) := by
  obtain ⟨hcalm, hfails⟩ := writesThenSends_execute (inR := noCoordinates) hp rfl hb (writesIn_outFlags w) (delaysIn_outFlags w)
    hbus htimer
  exact ⟨hcalm, fun k e hk hf => upToWrite_eq_take (delaysIn_outFlags w) k ▸ hfails k e hk hf⟩

/-- Settles O18: the three kinds of flag operation write their flag and send the same command. -/
theorem flagOperationsWriteThenSend : Obligations.FlagOperationsWriteThenSend := by
  intro s hp
  have cursor (v : Bool) := flagOperation_execute hp (bodyCursor_eq v s) rfl rfl
  have blink (v : Bool) := flagOperation_execute hp (bodyBlink_eq v s) rfl rfl
  have display (v : Bool) := flagOperation_execute hp (bodyDisplay_eq v s) rfl rfl
  simp only [outFlags_eq] at cursor blink display
  exact List.forall_iff_forall_mem.mp ⟨⟨rfl, cursor true⟩, ⟨rfl, cursor false⟩, ⟨rfl, blink true⟩, ⟨rfl, blink false⟩,
    ⟨rfl, display true⟩, ⟨rfl, display false⟩⟩

/-- Settles O19: of the single write of the backlight line, all has gone out when it fails. -/
theorem backlightOperationsWriteThenSend : Obligations.BacklightOperationsWriteThenSend := by
  intro s hp
  have light (v : Bool) :
      WritesThenSends s (execute noCoordinates (bodyBacklight v) s) (s.setBacklight v) [.w (if v then 0x08 else 0x00)] 1 := by
    refine writesThenSends_execute hp rfl ?_ rfl rfl rfl rfl
    rw [bodyBacklight_eq, backlightBits_eq_ite]
  have single (v : Bool) := And.intro (light v).1 fun e => (light v).2 0 e Nat.one_pos
  exact List.forall_iff_forall_mem.mp ⟨single true, single false⟩

/-- Settles O20: the positions are written first, whether or not the old cursor is saved. -/
theorem moveWritesThenSends : Obligations.MoveWritesThenSends := by
  intro s save row col hp hin
  have hr : inRange row col s = true := inRange_iff.mpr hin
  have hb := bodyMove_eq save ⟨row, col⟩ s
  have hw := writesIn_outAddress s.backlight ⟨row, col⟩
  have hd := delaysIn_outAddress s.backlight ⟨row, col⟩
  cases save
  · exact writesThenSends_execute hp hr hb hw hd rfl rfl
  · exact writesThenSends_execute hp hr hb hw hd rfl rfl

/-- Settles O24: 4 writes for the slot, 4 for each of the 8 bytes and 4 for the address; no command among them is a settling one. -/
theorem glyphSendsFortyWrites : Obligations.GlyphSendsFortyWrites := by
  intro s slot8 bitmap hp hlength outs
  have houts : outs = outCommand s.backlight (encCgram slot8.toNat) ++ bitmap.flatMap (outData s.backlight) ++
      outAddress s.backlight s.cur := by
    rw [encCgram_eq_append]
    rfl
  have hw : writesIn outs = 40 := by simp [houts, hlength]
  have hcgram := encCgram_toNat_gt slot8.toNat
  have hd : delaysIn outs = 0 := by
    rw [houts, delaysIn_append, delaysIn_append, delaysIn_outCommand, if_neg (by omega), delaysIn_flatMap_outData,
      delaysIn_outAddress]
  have hb : bodyGlyph slot8 bitmap s = emit outs s := houts ▸ bodyGlyph_eq slot8 bitmap s
  exact ⟨hw, hd, writesThenSends_execute (inR := noCoordinates) hp rfl hb hw hd rfl rfl⟩

/-! The outputs first, then the cursor. -/

/-- Settles O17: CLR and HOME are the settling commands, and the cursor is only written where both have gone out. -/
theorem clearSendsAndHomes : Obligations.ClearSendsAndHomes := by
  refine ⟨rfl, ?_⟩
  intro s hp outs
  have houts : outCommand s.backlight CLR ++ outCommand s.backlight HOME = outs := by
    rw [outCommand_of_le (by decide), outCommand_of_le (by decide), ← List.append_assoc]
    rfl
  have hb := bodyClear_eq s
  rw [houts] at hb
  refine ⟨fun hcalm => execute_done hp rfl ?_, fun k e hk hfails => execute_raised hp rfl ?_⟩
  · rw [hb, emit_calm hcalm]
    rfl
  · rw [hb, emit_fails hk hfails, Run.raised_andThen]

end Sys2Proof.Machine
end

section
/-! PROOFS. Printing (43_driver_ops.md R123 to R125): a character, a string and a string at a position, undisturbed and at a failing
write; and that a character that fails leaves the saved position. -/

namespace Sys2Proof.Machine

variable {s t u v : State} {ch : Byte} {before after text : List Byte} {p : Pos} {k : Nat} {e : BusFault}

/-! What printing leaves alone. -/

/-- `t` has the flags and the saved position of `s`: of the registers of the display only the cursor may have moved. -/
def State.onlyMoves (s t : State) : Prop := s.keepsFlags t ∧ t.saved = s.saved

theorem onlyMoves_refl (s : State) : s.onlyMoves s := ⟨⟨rfl, rfl, rfl, rfl⟩, rfl⟩

theorem onlyMoves_trans (h : s.onlyMoves t) (h' : t.onlyMoves u) : s.onlyMoves u := by
  obtain ⟨⟨hbacklight, hdisplay, hcursor, hblink⟩, hsaved⟩ := h
  obtain ⟨⟨hbacklight', hdisplay', hcursor', hblink'⟩, hsaved'⟩ := h'
  exact ⟨⟨hbacklight'.trans hbacklight, hdisplay'.trans hdisplay, hcursor'.trans hcursor, hblink'.trans hblink⟩,
    hsaved'.trans hsaved⟩

theorem onlyMoves_endsAs (h : s.onlyMoves t) (he : t.EndsAs u) : s.onlyMoves u :=
  onlyMoves_trans h ⟨⟨he.backlight, he.display, he.cursor, he.blink⟩, he.saved⟩

theorem onlyMoves_setCur (s : State) (p : Pos) : s.onlyMoves (s.setCur p) := onlyMoves_refl s

theorem onlyMoves_emit (outs : List Out) (s : State) : s.onlyMoves (emit outs s).state := by
  obtain ⟨pre, -, he⟩ := emit_state outs s
  exact he ▸ onlyMoves_refl s

theorem onlyMoves_andThen {r : Run} {k : State → Run} (hr : s.onlyMoves r.state)
    (hk : ∀ t : State, t.onlyMoves (k t).state) : s.onlyMoves (r.andThen k).state := by
  cases r with
  | done t => exact onlyMoves_trans hr (hk t)
  | raised e t => exact hr
  | cut q t => exact hr

theorem onlyMoves_bodyClear (s : State) : s.onlyMoves (bodyClear s).state := by
  rw [bodyClear_eq]
  exact onlyMoves_andThen (onlyMoves_emit _ s) fun t => onlyMoves_setCur t homePos

theorem onlyMoves_bodyPutc (ch : Byte) (s : State) : s.onlyMoves (bodyPutc ch s).state := by
  rw [bodyPutc_eq]
  exact onlyMoves_andThen (onlyMoves_emit _ s) fun t => onlyMoves_emit _ (State.setCur t _)

theorem onlyMoves_bodyPuts (text : List Byte) (s : State) : s.onlyMoves (bodyPuts text s).state := by
  induction text generalizing s with
  | nil => exact onlyMoves_refl s
  | cons ch rest ih =>
    rw [bodyPuts_cons]
    exact onlyMoves_andThen (onlyMoves_bodyPutc ch s) ih

/-- MOVE and PUTS at a position write the positions first. -/
theorem onlyMoves_bodyMove (save : Bool) (p : Pos) (s : State) :
    (if save then saveAndMove p s else moveTo p s).onlyMoves (bodyMove save p s).state := by
  rw [bodyMove_eq]
  exact onlyMoves_emit _ _

theorem onlyMoves_bodyPutsAt (p : Pos) (text : List Byte) (s : State) :
    (saveAndMove p s).onlyMoves (bodyPutsAt p text s).state := by
  rw [bodyPutsAt_eq]
  exact onlyMoves_andThen (onlyMoves_emit _ _) fun t => onlyMoves_andThen (onlyMoves_bodyPuts text t) fun u =>
    onlyMoves_emit _ (restore u)

/-! A character. -/

theorem bodyPutc_calm (h : s.calm (writesIn (charData s.backlight ch ++ s.charAddress ch)) 0) :
    bodyPutc ch s = .done (s.typed ch) := by
  have houts : s.outsAll [ch] = charData s.backlight ch ++ s.charAddress ch := List.append_nil _
  have hputs : bodyPuts [ch] s = .done (s.typed ch) := bodyPuts_calm (by rwa [delaysIn_outsAll, houts])
  rwa [bodyPuts_cons, bodyPuts, List.map_nil, Run.andThen_doAll_nil] at hputs

theorem bodyPutc_data_fails (hk : k < writesIn (charData s.backlight ch)) (h : s.failsAt k e 0) :
    bodyPutc ch s = .raised e (s.emitted (upToWrite k (charData s.backlight ch))) := by
  rw [bodyPutc_eq, emit_fails_of_noDelay (delaysIn_charData _ _) hk h, Run.raised_andThen]

/-- Once the data has gone out, the re-address fails with the cursor moved. -/
theorem bodyPutc_address_fails (hk : k < writesIn (s.charAddress ch)) (h : s.failsAt (writesIn (charData s.backlight ch) + k) e 0) :
    bodyPutc ch s =
      .raised e ((s.emitted (charData s.backlight ch ++ upToWrite k (s.charAddress ch))).setCur (s.posAfter ch)) := by
  have hdata := delaysIn_charData s.backlight ch
  have hfails : ((s.emitted (charData s.backlight ch)).setCur (s.posAfter ch)).failsAt k e 0 :=
    failsAt_emitted (outs := charData s.backlight ch) (by rwa [hdata])
  rw [bodyPutc_eq, emit_calm_of_noDelay hdata (calm_mono h.1 (Nat.le_add_right _ _) le_rfl), Run.done_andThen,
    emit_fails_of_noDelay (delaysIn_charAddress s ch) hk hfails, ← emitted_emitted]
  rfl

/-- Settles O21, one lemma for each clause. -/
theorem putcSendsThenMoves : Obligations.PutcSendsThenMoves := fun _ _ hp =>
  ⟨fun h => execute_done hp rfl (bodyPutc_calm h), fun _ _ hk h => execute_raised hp rfl (bodyPutc_data_fails hk h),
    fun _ _ hk h => execute_raised hp rfl (bodyPutc_address_fails hk h)⟩

/-! A string. -/

theorem bodyPuts_append (before after : List Byte) (s : State) :
    bodyPuts (before ++ after) s = (bodyPuts before s).andThen (bodyPuts after) := by
  rw [bodyPuts, List.map_append, doAll_append]
  rfl

theorem bodyPuts_calm_of_writes (h : s.calm (writesIn (s.outsAll text)) 0) : bodyPuts text s = .done (s.typedAll text) :=
  bodyPuts_calm (by rwa [delaysIn_outsAll])

/-- The fault of a character ends the string there. -/
theorem bodyPuts_fails (h : s.calm (writesIn (s.outsAll before)) 0) (hch : bodyPutc ch (s.typedAll before) = .raised e v) :
    bodyPuts (before ++ ch :: after) s = .raised e v := by
  rw [bodyPuts_append, bodyPuts_calm_of_writes h, Run.done_andThen, bodyPuts_cons, hch, Run.raised_andThen]

/-- Settles O22: the characters before the failing one are printed, and those after it do not run. -/
theorem putsPrintsInOrder : Obligations.PutsPrintsInOrder := by
  intro s text hp
  refine ⟨fun h => execute_done hp rfl (bodyPuts_calm_of_writes h), ?_, execute_done hp rfl rfl⟩
  rintro before ch after e v rfl h hch
  exact execute_raised hp rfl (bodyPuts_fails h hch)

/-! A string at a position. -/

/-- `s` when a string at `p` begins: the positions written and the address sent. -/
def State.putsStart (s : State) (p : Pos) : State := (saveAndMove p s).emitted (outAddress s.backlight p)

/-- What the environment does from there on. -/
theorem calm_putsStart {n : Nat} (p : Pos) (h : s.calm (4 + n) 0) : (s.putsStart p).calm n 0 :=
  calm_emitted (s := saveAndMove p s) _ (by rwa [writesIn_outAddress, delaysIn_outAddress])

theorem bodyPutsAt_of_calm (h : s.calm 4 0) : bodyPutsAt p text s = (bodyPuts text (s.putsStart p)).andThen fun u =>
    emit (outAddress u.backlight u.saved) (restore u) := by
  rw [bodyPutsAt_eq, emit_address_calm (s := saveAndMove p s) _ p h, Run.done_andThen]
  rfl

theorem bodyPutsAt_address_fails (hk : k < 4) (h : s.failsAt k e 0) :
    bodyPutsAt p text s = .raised e ((saveAndMove p s).emitted (upToWrite k (outAddress s.backlight p))) := by
  rw [bodyPutsAt_eq, emit_address_fails (s := saveAndMove p s) _ p hk h, Run.raised_andThen]

theorem bodyPutsAt_char_fails (h : s.calm (4 + writesIn ((s.putsStart p).outsAll before)) 0)
    (hch : bodyPutc ch ((s.putsStart p).typedAll before) = .raised e v) :
    bodyPutsAt p (before ++ ch :: after) s = .raised e v := by
  rw [bodyPutsAt_of_calm (calm_mono h (Nat.le_add_right _ _) le_rfl), bodyPuts_fails (calm_putsStart p h) hch, Run.raised_andThen]

/-- The string printed, what is left is the address of the old cursor, which stands in the saved position. -/
theorem bodyPutsAt_of_printed (h : s.calm (4 + writesIn ((s.putsStart p).outsAll text)) 0) :
    bodyPutsAt p text s = emit (outAddress s.backlight s.cur) (((s.putsStart p).typedAll text).setCur s.cur) := by
  rw [bodyPutsAt_of_calm (calm_mono h (Nat.le_add_right _ _) le_rfl), bodyPuts_calm_of_writes (calm_putsStart p h),
    Run.done_andThen, restore, typedAll_saved, typedAll_backlight]
  rfl

/-- The ports after a printed string are those after its outputs. -/
theorem failsAt_typedAll (h : s.failsAt (writesIn (s.outsAll text) + k) e 0) : (s.typedAll text).failsAt k e 0 := by
  obtain ⟨p, hp⟩ := typedAll_eq s text
  rw [hp]
  exact failsAt_emitted (outs := s.outsAll text) (by rwa [delaysIn_outsAll])

theorem calm_typedAll {n : Nat} (h : s.calm (writesIn (s.outsAll text) + n) 0) : (s.typedAll text).calm n 0 := by
  obtain ⟨p, hp⟩ := typedAll_eq s text
  rw [hp]
  exact calm_emitted (s.outsAll text) (by rwa [delaysIn_outsAll])

theorem failsAt_putsStart {n : Nat} (p : Pos) (h : s.failsAt (4 + n) e 0) : (s.putsStart p).failsAt n e 0 :=
  failsAt_emitted (s := saveAndMove p s) (outs := outAddress s.backlight p) (by rwa [writesIn_outAddress, delaysIn_outAddress])

/-- Settles O23: the first address, a character or the last address fails, or none of them. -/
theorem putsAtRestoresTheCursor : Obligations.PutsAtRestoresTheCursor := by
  intro s row col text hp hin first last moved start n restored
  have hr : inRange row col s = true := inRange_iff.mpr hin
  refine ⟨fun h => execute_done hp hr ?_, fun k e hk h => execute_raised hp hr (bodyPutsAt_address_fails hk h), ?_,
    fun k e hk h => execute_raised hp hr ?_⟩
  · have hlast : restored.calm 4 0 := calm_typedAll (calm_putsStart ⟨row, col⟩ (Nat.add_assoc 4 _ 4 ▸ h))
    rw [bodyPutsAt_of_printed (calm_mono h (Nat.le_add_right n 4) le_rfl)]
    exact emit_address_calm s.backlight s.cur hlast
  · rintro before ch after e v rfl h hch
    have hsaved : v.saved = (start.typedAll before).saved := by
      have hmoves := onlyMoves_bodyPutc ch (start.typedAll before)
      rw [hch] at hmoves
      exact hmoves.2
    exact ⟨execute_raised hp hr (bodyPutsAt_char_fails h hch), hsaved.trans (typedAll_saved start before)⟩
  · have hlast : restored.failsAt k e 0 := failsAt_typedAll (failsAt_putsStart ⟨row, col⟩ (Nat.add_assoc 4 _ k ▸ h))
    rw [bodyPutsAt_of_printed (calm_mono h.1 (Nat.le_add_right n k) le_rfl)]
    exact emit_address_fails s.backlight s.cur hk hlast

end Sys2Proof.Machine
end

section
/-! PROOFS. What the text operations and the instructions that only send leave alone, however they end (43_driver_ops.md R113, R122 to
R126; 30_encoding.md R62; 60_exceptions.md R137). -/

namespace Sys2Proof.Machine

variable {s t w : State} {i : Instr} {inR : State → Bool} {body : State → Run}

/-! The text operations. -/

/-- Held or refused, an operation leaves the registers as they are in `s`; run, as its body does from `w` on. -/
theorem onlyMoves_execute (hb : w.onlyMoves (body s).state) (h : execute inR body s = .next t) :
    s.onlyMoves t ∨ w.onlyMoves t := by
  rcases execute_endsAs h with he | ⟨-, he⟩
  · exact .inl (onlyMoves_endsAs (onlyMoves_refl s) he)
  · exact .inr (onlyMoves_endsAs hb he)

/-- `t` has the flags of `s`, and the saved position of `s` or, if `i` saves the cursor, the cursor of `s`. -/
def State.textKeeps (s t : State) (saves : Prop) : Prop := s.keepsFlags t ∧ (t.saved = s.saved ∨ (t.saved = s.cur ∧ saves))

theorem textKeeps_of_onlyMoves {saves : Prop} (h : s.onlyMoves t) : s.textKeeps t saves := ⟨h.1, .inl h.2⟩

theorem textKeeps_of_saveAndMove {p : Pos} {saves : Prop} (hsaves : saves) (h : s.onlyMoves t ∨ (saveAndMove p s).onlyMoves t) :
    s.textKeeps t saves :=
  h.elim textKeeps_of_onlyMoves fun ⟨hflags, hsaved⟩ => ⟨hflags, .inr ⟨hsaved, hsaves⟩⟩

/-- Settles O50: a body keeps the flags, and the saved position too once MOVE with S or PUTS at has written it. -/
theorem textOperationsFrame : Obligations.TextOperationsFrame := by
  intro s t save row col ch text i hi h
  have moves {body} {saves : Prop} (hb : s.onlyMoves (body s).state) (h : execute noCoordinates body s = .next t) :
      s.textKeeps t saves := textKeeps_of_onlyMoves ((onlyMoves_execute hb h).elim id id)
  obtain ⟨hframe, hflags, hsaved⟩ : isFrame i ∧ s.textKeeps t (i = .move true row col ∨ i = .putsAt row col text) := by
    simp only [List.mem_cons, List.not_mem_nil, or_false] at hi
    rcases hi with rfl | rfl | rfl | rfl | rfl
    · exact ⟨⟨_, rfl⟩, moves (onlyMoves_bodyClear s) h⟩
    · refine ⟨⟨_, rfl⟩, ?_⟩
      have hmove := onlyMoves_execute (onlyMoves_bodyMove save ⟨row, col⟩ s) h
      cases save
      · exact textKeeps_of_onlyMoves (hmove.elim id id)
      · exact textKeeps_of_saveAndMove (.inl rfl) hmove
    · exact ⟨⟨_, rfl⟩, moves (onlyMoves_bodyPutc ch s) h⟩
    · exact ⟨⟨_, rfl⟩, moves (onlyMoves_bodyPuts text s) h⟩
    · exact ⟨⟨_, rfl⟩, textKeeps_of_saveAndMove (.inr rfl) (onlyMoves_execute (onlyMoves_bodyPutsAt ⟨row, col⟩ text s) h)⟩
  exact ⟨keepsConfig_exec h, hflags, exec_phase_of_isFrame hframe h, hsaved⟩

/-! The instructions that only send. -/

/-- However far GLYPH comes, it leaves the state after a beginning of its outputs. -/
theorem glyph_endsAs {slot8 : Byte} {bitmap : List Byte} (h : exec (.glyph slot8 bitmap) s = .next t) :
    ∃ outs, (s.emitted outs).EndsAs t := by
  rcases execute_endsAs h with he | ⟨-, he⟩
  · exact ⟨[], by rwa [emitted_nil]⟩
  · rw [bodyGlyph_eq] at he
    obtain ⟨pre, -, hp⟩ := emit_state _ s
    exact ⟨pre, hp ▸ he⟩

theorem reserved_endsAs (h : executeIllegal s = .next t) : ∃ outs, (s.emitted outs).EndsAs t :=
  ⟨[], by rw [emitted_nil]; exact executeIllegal_endsAs h⟩

/-- What is neither a flag nor a text operation is GLYPH, a reserved opcode or a word of Parts B and C. -/
theorem sending_endsAs
    (hi : ∀ save row col ch text, i ∉ [Instr.clear, .cursorOn, .cursorOff, .blinkOn, .blinkOff, .displayOn, .displayOff, .backlightOn,
      .backlightOff, .move save row col, .putc ch, .puts text, .putsAt row col text])
    (h : exec i s = .next t) : ∃ outs, (s.emitted outs).EndsAs t := by
  cases i
  case glyph slot8 bitmap => exact glyph_endsAs h
  case reservedD rest | reservedE rest | reservedF rest => exact reserved_endsAs h
  case move save row col => exact absurd (by simp) (hi save row col 0 [])
  case putc ch => exact absurd (by simp) (hi false 0 0 ch [])
  case puts text => exact absurd (by simp) (hi false 0 0 0 text)
  case putsAt row col text => exact absurd (by simp) (hi false row col 0 text)
  case clear | cursorOn | cursorOff | blinkOn | blinkOff | displayOn | displayOff | backlightOn | backlightOff =>
    exact absurd (by simp) (hi false 0 0 0 [])
  all_goals exact word_endsAs (by rintro ⟨f, hf⟩; cases hf) h

/-- Settles O51: after some outputs, the end of the instruction writes no register of the display. -/
theorem sendingFrame : Obligations.SendingFrame := by
  intro i s t hi h
  obtain ⟨outs, he⟩ := sending_endsAs hi h
  exact ⟨keepsConfig_exec h, ⟨he.cur, he.saved⟩, ⟨he.backlight, he.display, he.cursor, he.blink⟩⟩

end Sys2Proof.Machine
end

section
/-! PROOFS. Refusals and holds (60_exceptions.md R134 to R136, R148): coordinates out of range, a frame in INIT_FAILED or with an illegal
header, and the operation port before READY. -/

namespace Sys2Proof.Machine

variable {s t : State} {r : Run}

/-- Settles O29: MOVE and PUTS at a position check its row and column before anything else is done in READY. -/
theorem outOfRangeIsRefused : Obligations.OutOfRangeIsRefused := by
  intro s save row col text hp hout i hi
  have hrange : inRange row col s = false := Bool.eq_false_iff.mpr (mt inRange_iff.mp hout)
  simp only [List.mem_cons, List.not_mem_nil, or_false] at hi
  rcases hi with rfl | rfl <;> exact ⟨_, execute_outOfRange hp hrange _, rfl⟩

/-! Phases without a program. -/

/-- In READY and INIT_FAILED nothing is left of a sequence. -/
theorem seq_nil_of_onProgram (hp : s.phase = .ready ∨ s.phase = .initFailed) (h : s.onProgram) : s.seq = [] := by
  rcases hp with hp | hp <;> simpa [State.onProgram, hp, program] using h

/-- In INIT_FAILED the step refuses the frame, whatever it is. -/
theorem step_initFailed_frame {f : Frame} {rest : List Frame} (hp : s.phase = .initFailed) (hprogram : s.onProgram)
    (hr : s.resetReq = none) (hf : s.frames = f :: rest) : step s = .next ((s.setFrames rest).refuse .notReady) := by
  have hstatements := statements_nil (.inr hp) (seq_nil_of_onProgram (.inr hp) hprogram)
  rw [step_frame hr (by simp [hp]) hstatements hf, fetchFrame_initFailed (s := s.setFrames rest) hp]
  rfl

/-- Settles O30: the fetch asks the phase first, and in READY an illegal header is refused as O4 says. -/
theorem refusalPriority : Obligations.RefusalPriority := by
  intro s f rest hprogram hr hf
  refine ⟨fun hp => step_initFailed_frame hp hprogram hr hf, fun hp hillegal => ?_⟩
  have hidle : s.readyIdle := ⟨hp, seq_nil_of_onProgram (.inl hp) hprogram, hr⟩
  obtain ⟨hrefused, -⟩ := illegalHeadersAreRefused s f.header f.payload rest hidle hf
  exact hrefused hillegal

/-- Settles O35: INIT_FAILED has no statement to run, so the step takes a frame or waits. -/
theorem initFailedLastsUntilReset : Obligations.InitFailedLastsUntilReset := by
  intro s hp hprogram hr
  have hstatements := statements_nil (.inr hp) (seq_nil_of_onProgram (.inr hp) hprogram)
  exact ⟨step_idle hr (by simp [hp]) hstatements, fun f rest => step_initFailed_frame hp hprogram hr⟩

/-! Before READY. -/

/-- The operation port and the record of what was returned are as before. -/
def State.keepsPort (s t : State) : Prop := t.frames = s.frames ∧ t.replies = s.replies

theorem keepsPort_finished (h : s.ranTo r.state) : s.keepsPort r.finished := by
  have hstate : s.keepsPort r.state := ⟨ranTo_frames h, ranTo_replies h⟩
  cases r <;> exact hstate

/-- A statement of the engine's own returns nothing: what it runs is no frame. -/
theorem keepsPort_fetchStmt {st : Stmt} (h : (fetchStmt st s).outcome = .next t) : s.keepsPort t := by
  cases st with
  | send w =>
    cases hd : decodeWord w with
    | ok i =>
      rw [fetchStmt_send hd] at h
      rcases exec_cases i s with ⟨⟨f, hf⟩, -⟩ | ⟨-, outs, hplain, he⟩
      · rw [encode_of_decodeWord hd] at hf
        cases hf
      · cases he.symm.trans h
        exact keepsPort_finished (ranTo_emit s hplain)
    | error e =>
      rw [fetchStmt, hd] at h
      cases h
  | wait ms =>
    cases h
    exact keepsPort_finished (ranTo_delay ms s)
  | body b =>
    cases h
    exact keepsPort_finished (ranTo_initBody b s)
  | enter p =>
    cases h
    exact ⟨rfl, rfl⟩

/-- A reset clears neither the port nor the record (log entry 27). -/
theorem keepsPort_assertReset {p : Params} (h : assertReset p s = .next t) : s.keepsPort t := by
  unfold assertReset at h
  split at h <;> cases h
  exact ⟨rfl, rfl⟩

/-- Every phase of initialization has a program (70_reset_and_hazards.md R151 to R155). -/
theorem program_ne_nil {p : Phase} (n : BitVec 3) (hgate : p.gate = .hold) (hp : p ≠ .uninit) : program n p ≠ [] := by
  cases p with
  | uninit => exact absurd rfl hp
  | ready | initFailed => cases hgate
  | powerUp | modeReset1 | modeReset2 | modeReset3 | fourBit | configured => exact List.cons_ne_nil _ _

theorem statements_ne_nil (hgate : s.phase.gate = .hold) (hp : s.phase ≠ .uninit) : s.statements ≠ [] := by
  unfold State.statements
  split
  · exact program_ne_nil s.numLines hgate hp
  · simpa using ‹¬ s.seq.isEmpty = true›

/-- Settles O31, along the cases of a step: with a statement left to run, none is the taking of a frame. -/
theorem framesAreHeldBeforeReady : Obligations.FramesAreHeldBeforeReady := by
  intro s t hgate he
  rcases step_cases s with ⟨p, -, hs⟩ | ⟨-, -, hs⟩ | ⟨st, rest, -, -, -, hs⟩ | ⟨f, rest, -, hp, hnil, -⟩ | ⟨-, hp, hnil, -⟩
  · exact keepsPort_assertReset (hs ▸ he)
  · cases hs.symm.trans he
    exact ⟨rfl, rfl⟩
  · exact keepsPort_fetchStmt (s := s.setSeq rest) (hs ▸ he)
  · exact absurd hnil (statements_ne_nil hgate hp)
  · exact absurd hnil (statements_ne_nil hgate hp)

end Sys2Proof.Machine
end

section
/-! PROOFS. How an operation in READY ends (60_exceptions.md R130), and how a statement of initialization ends at a failing write
(60_exceptions.md R148). -/

namespace Sys2Proof.Machine

variable {s t : State} {e : BusFault}

/-- Settles O32: a refusal, or one of the three ends of a run. -/
theorem oneOutcomePerOperation : Obligations.OneOutcomePerOperation := by
  intro i s t hi hp hreset he
  rcases exec_cases i s with ⟨-, ⟨hhold, -⟩ | ⟨-, reason, h⟩ | ⟨-, r, hr, h⟩⟩ | ⟨hword, -⟩
  · rw [hp] at hhold
    cases hhold
  · cases h.symm.trans he
    exact .inr (.inr (.inl ⟨reason, rfl⟩))
  · cases h.symm.trans he
    have hreset' := (ranTo_resetReq hr).trans hreset
    have hreplies := ranTo_replies hr
    cases r with
    | done u => exact .inl ⟨hreset', rfl, congrArg (· ++ [_]) hreplies⟩
    | raised e u => exact .inr (.inl ⟨e, hreset', rfl, rfl, congrArg (· ++ [_]) hreplies⟩)
    | cut p u => exact .inr (.inr (.inr ⟨p, rfl, ranTo_status (t := u) hr, hreplies⟩))
  · exact absurd hi hword

/-! Initialization. -/

/-- A fault in a phase of initialization ends in INIT_FAILED (70_reset_and_hazards.md R158). -/
theorem afterFault_of_hold {p : Phase} (hgate : p.gate = .hold) (hp : p ≠ .uninit) : p.afterFault = .initFailed := by
  cases p with
  | uninit => exact absurd rfl hp
  | ready | initFailed => cases hgate
  | powerUp | modeReset1 | modeReset2 | modeReset3 | fourBit | configured => rfl

/-- There a fault leaves nothing of the sequence, whatever was left of it. -/
theorem takeFault_eq_initFault {rest : List Stmt} {outs : List Out} (hgate : s.phase.gate = .hold) (hp : s.phase ≠ .uninit) :
    takeFault e ((s.setSeq rest).emitted outs) = (s.emitted outs).initFault e := by
  rw [State.initFault, ← afterFault_of_hold hgate hp]
  rfl

/-- A step of an engine on its program runs the first statement left: registers, outputs, then what it writes after them. -/
theorem step_runs_stmt {st : Stmt} {rest : List Stmt} (hr : s.resetReq = none) (hp : s.phase ≠ .uninit) (hprogram : s.onProgram)
    (hst : s.statements = st :: rest) :
    step s = .next
      ((emit ((s.stmtWrites st).outStmt st) ((s.stmtWrites st).setSeq rest)).andThen fun t => .done (t.stmtEnds st)).finished := by
  have hmem : st ∈ program s.numLines s.phase := (statements_suffix hprogram).subset (by simp [hst])
  rw [step_stmt hr hp hst]
  exact program_runs rest hmem

/-- Settles O34, along what the outputs of the statement can do: only a failing write among them sets the fault mark. -/
theorem initFaultEndsInInitFailed : Obligations.InitFaultEndsInInitFailed := by
  intro s st rest hgate hp hprogram hr hst
  obtain ⟨hphase, hseen, -, hbus, htimer⟩ := stmtWrites_keeps s st
  have hstep := step_runs_stmt hr hp hprogram hst
  rw [← hphase] at hgate hp
  constructor
  · intro k e hk hfails
    have hfails' := failsAt_congr (t := (s.stmtWrites st).setSeq rest) hbus htimer hfails
    rw [hstep, emit_fails hk hfails', Run.raised_andThen, finished_raised, takeFault_eq_initFault hgate hp]
  · intro t hunseen he hmark
    have hunseen' := hseen.trans hunseen
    cases hstep.symm.trans he
    rcases emit_cases ((s.stmtWrites st).outStmt st) ((s.stmtWrites st).setSeq rest) with
      ⟨h, -⟩ | ⟨k, e, hk, hfails, h⟩ | ⟨pre, p, -, -, h⟩
    · rw [h, Run.done_andThen, finished_done, stmtEnds_faultSeen] at hmark
      exact absurd (hunseen'.symm.trans hmark) Bool.false_ne_true
    · refine ⟨k, e, hk, failsAt_congr hbus.symm htimer.symm hfails, ?_⟩
      rw [h, Run.raised_andThen, finished_raised, takeFault_eq_initFault hgate hp]
    · rw [h, Run.cut_andThen] at hmark
      exact absurd (hunseen'.symm.trans hmark) Bool.false_ne_true

end Sys2Proof.Machine
end

section
/-! PROOFS. The trace of a disturbed run is a beginning of that of the undisturbed one (60_exceptions.md R137, R138): what a body sends
and writes does not depend on the ports, and every statement only adds to the trace. -/

namespace Sys2Proof.Machine

variable {s t u : State} {b : BusPort} {d : DelayPort} {r : Run} {j k : State → Run}

/-- `s` in another environment. -/
def State.withPorts (s : State) (b : BusPort) (d : DelayPort) : State := { s with bus := b, timer := d }

/-- Where the statement reaches its end in another environment, it has added to the trace there, what it adds here is a beginning of
that, and where it reaches its end here too, it leaves the same state but for the ports. -/
def BeginsWhole (k : State → Run) : Prop :=
  ∀ s b d u', k (s.withPorts b d) = .done u' →
    s.trace <+: u'.trace ∧ (k s).state.trace <+: u'.trace ∧ ∀ u, k s = .done u → ∃ b' d', u' = u.withPorts b' d'

/-! Statements. -/

/-- A list of outputs that is read off the state, the ports apart. -/
theorem beginsWhole_of_emit {outs : State → List Out} (hk : ∀ s, k s = emit (outs s) s)
    (houts : ∀ s b d, outs (s.withPorts b d) = outs s) : BeginsWhole k := by
  intro s b d u' h
  rw [hk, houts] at h
  obtain ⟨rfl, -⟩ := emit_done h
  refine ⟨List.prefix_append _ _, ?_, fun u hu => ?_⟩
  · obtain ⟨pre, hpre, he⟩ := emit_state (outs s) s
    rw [hk, he]
    exact (List.prefix_append_right_inj _).mpr (hpre.map _)
  · rw [hk] at hu
    obtain ⟨rfl, -⟩ := emit_done hu
    exact ⟨_, _, rfl⟩

/-- A statement that only writes registers, and reads no port. -/
theorem beginsWhole_change {f : State → State} (htrace : ∀ s, (f s).trace = s.trace)
    (hf : ∀ s b d, f (s.withPorts b d) = (f s).withPorts b d) : BeginsWhole (change f) := by
  intro s b d u' h
  rw [change_apply, hf] at h
  cases h
  have hprefix : s.trace <+: (f s).trace := by rw [htrace]
  refine ⟨hprefix, List.prefix_rfl, fun u hu => ?_⟩
  cases hu
  exact ⟨b, d, rfl⟩

/-- Statements in order: the second adds to what the first has sent in full, or is not reached. -/
theorem beginsWhole_andThen (hj : BeginsWhole j) (hk : BeginsWhole k) : BeginsWhole fun s => (j s).andThen k := by
  intro s b d u' h
  obtain ⟨v', hv', hu'⟩ := andThen_eq_done h
  obtain ⟨hgrows, hbegins, hsame⟩ := hj s b d v' hv'
  obtain ⟨hgrows', -⟩ := hk v' v'.bus v'.timer u' hu'
  dsimp only
  cases hrun : j s with
  | done v =>
    obtain ⟨b', d', rfl⟩ := hsame v hrun
    obtain ⟨-, hbegins', hsame'⟩ := hk v b' d' u' hu'
    exact ⟨hgrows.trans hgrows', hbegins', hsame'⟩
  | raised e v | cut p v =>
    rw [hrun] at hbegins
    exact ⟨hgrows.trans hgrows', hbegins.trans hgrows', fun u hu => by cases hu⟩

theorem beginsWhole_doAll {as : List (State → Run)} (h : ∀ a ∈ as, BeginsWhole a) : BeginsWhole (doAll as) := by
  induction as with
  | nil => exact beginsWhole_change (f := id) (fun _ => rfl) fun _ _ _ => rfl
  | cons a rest ih =>
    obtain ⟨ha, hrest⟩ := List.forall_mem_cons.mp h
    exact beginsWhole_andThen ha (ih hrest)

/-- Register writes, then the outputs. -/
theorem beginsWhole_change_then {f : State → State} (htrace : ∀ s, (f s).trace = s.trace)
    (hf : ∀ s b d, f (s.withPorts b d) = (f s).withPorts b d) (hk : BeginsWhole k) : BeginsWhole (doAll [change f, k]) :=
  beginsWhole_doAll (by simp [beginsWhole_change htrace hf, hk])

theorem beginsWhole_writeCommand (cmd : Byte) : BeginsWhole (writeCommand cmd) :=
  beginsWhole_of_emit (writeCommand_eq cmd) fun _ _ _ => rfl

theorem beginsWhole_writeData (v : Byte) : BeginsWhole (writeData v) :=
  beginsWhole_of_emit (writeData_eq v) fun _ _ _ => rfl

theorem beginsWhole_sendWord (w : BusWord) : BeginsWhole (sendWord w) :=
  beginsWhole_of_emit (sendWord_eq w) fun _ _ _ => rfl

theorem beginsWhole_updateDisplayControl : BeginsWhole updateDisplayControl :=
  beginsWhole_of_emit updateDisplayControl_eq fun _ _ _ => rfl

theorem beginsWhole_writeBacklight : BeginsWhole writeBacklight :=
  beginsWhole_of_emit writeBacklight_eq fun _ _ _ => rfl

theorem beginsWhole_readdress : BeginsWhole readdress :=
  beginsWhole_of_emit readdress_eq fun _ _ _ => rfl

/-- A choice that is read off the state, the ports apart. -/
theorem beginsWhole_ite {c : State → Bool} (hc : ∀ s b d, c (s.withPorts b d) = c s) (hj : BeginsWhole j) (hk : BeginsWhole k) :
    BeginsWhole fun s => if c s then j s else k s := by
  intro s b d
  simp only [hc]
  cases c s
  · exact hk s b d
  · exact hj s b d

/-! Bodies. -/

theorem beginsWhole_bodyClear : BeginsWhole bodyClear := by
  have hcommands : BeginsWhole (doAll (encClear.map writeCommand)) :=
    beginsWhole_doAll (by simp [encClear, beginsWhole_writeCommand])
  have hhome : BeginsWhole (change (moveTo homePos)) := beginsWhole_change (fun _ => rfl) fun _ _ _ => rfl
  exact beginsWhole_doAll (by simp [hcommands, hhome])

theorem beginsWhole_bodyCursor (v : Bool) : BeginsWhole (bodyCursor v) :=
  beginsWhole_change_then (fun _ => rfl) (fun _ _ _ => rfl) beginsWhole_updateDisplayControl

theorem beginsWhole_bodyBlink (v : Bool) : BeginsWhole (bodyBlink v) :=
  beginsWhole_change_then (fun _ => rfl) (fun _ _ _ => rfl) beginsWhole_updateDisplayControl

theorem beginsWhole_bodyDisplay (v : Bool) : BeginsWhole (bodyDisplay v) :=
  beginsWhole_change_then (fun _ => rfl) (fun _ _ _ => rfl) beginsWhole_updateDisplayControl

theorem beginsWhole_bodyBacklight (v : Bool) : BeginsWhole (bodyBacklight v) :=
  beginsWhole_change_then (fun _ => rfl) (fun _ _ _ => rfl) beginsWhole_writeBacklight

theorem beginsWhole_bodyMove (save : Bool) (p : Pos) : BeginsWhole (bodyMove save p) := by
  cases save <;> exact beginsWhole_change_then (fun _ => rfl) (fun _ _ _ => rfl) beginsWhole_readdress

theorem advanceAndReaddress_eq_ite (s : State) : advanceAndReaddress s =
    if atLastColumn s then doAll [change newline, readdress] s
    else change (fun v => v.setCur ⟨v.cur.row, BitVec.ofNat 6 (v.cur.col.toNat + 1)⟩) s := by
  cases hlast : atLastColumn s <;> simp [advanceAndReaddress, advance, hlast]

/-- Whether the cursor wraps is read off the cursor and the geometry. -/
theorem beginsWhole_advanceAndReaddress : BeginsWhole advanceAndReaddress := by
  have hnewline : BeginsWhole (doAll [change newline, readdress]) :=
    beginsWhole_change_then (fun _ => rfl) (fun _ _ _ => rfl) beginsWhole_readdress
  have hnext : BeginsWhole (change fun v => v.setCur ⟨v.cur.row, BitVec.ofNat 6 (v.cur.col.toNat + 1)⟩) :=
    beginsWhole_change (fun _ => rfl) fun _ _ _ => rfl
  rw [funext advanceAndReaddress_eq_ite]
  exact beginsWhole_ite (fun _ _ _ => rfl) hnewline hnext

theorem beginsWhole_bodyPutc (ch : Byte) : BeginsWhole (bodyPutc ch) := by
  unfold bodyPutc
  split
  · exact beginsWhole_change_then (fun _ => rfl) (fun _ _ _ => rfl) beginsWhole_readdress
  · exact beginsWhole_doAll (by simp [beginsWhole_writeData, beginsWhole_advanceAndReaddress])

theorem beginsWhole_bodyPuts (text : List Byte) : BeginsWhole (bodyPuts text) :=
  beginsWhole_doAll (by simp [beginsWhole_bodyPutc])

theorem beginsWhole_bodyPutsAt (p : Pos) (text : List Byte) : BeginsWhole (bodyPutsAt p text) := by
  have hmove : BeginsWhole (change (saveAndMove p)) := beginsWhole_change (fun _ => rfl) fun _ _ _ => rfl
  have hrestore : BeginsWhole (change restore) := beginsWhole_change (fun _ => rfl) fun _ _ _ => rfl
  exact beginsWhole_doAll (by simp [hmove, hrestore, beginsWhole_readdress, beginsWhole_bodyPuts])

theorem beginsWhole_bodyGlyph (slot8 : Byte) (bitmap : List Byte) : BeginsWhole (bodyGlyph slot8 bitmap) := by
  have hdata : BeginsWhole (doAll (bitmap.map writeData)) := beginsWhole_doAll (by simp [beginsWhole_writeData])
  exact beginsWhole_doAll (by simp [hdata, beginsWhole_writeCommand, beginsWhole_readdress])

/-! Instructions. -/

/-- The trace that `f` leaves is a beginning of the one it leaves in an environment in which it meets neither a fault nor a reset. -/
def TraceBeginsWhole (f : State → Host.Outcome State Fault Refusal) : Prop :=
  ∀ s b d t t', f s = .next t → f (s.withPorts b d) = .next t' → t'.faultSeen = false → t'.resetReq = none → t.trace <+: t'.trace

theorem finished_reaches_end (hfault : r.finished.faultSeen = false) (hreset : r.finished.resetReq = none) : ∃ u, r = .done u := by
  cases r with
  | done u => exact ⟨u, rfl⟩
  | raised e u => cases hfault
  | cut p u => cases hreset

theorem completed_resetReq (r : Run) : r.completed.resetReq = r.finished.resetReq := by cases r <;> rfl

/-- A run that leaves neither a fault nor a reset has reached its end. -/
theorem trace_prefix_of_reaches_end (hk : BeginsWhole k) (hfault : (k (s.withPorts b d)).finished.faultSeen = false)
    (hreset : (k (s.withPorts b d)).finished.resetReq = none) : (k s).state.trace <+: (k (s.withPorts b d)).state.trace := by
  obtain ⟨u', hu'⟩ := finished_reaches_end hfault hreset
  obtain ⟨-, hbegins, -⟩ := hk s b d u' hu'
  rwa [hu']

theorem traceBeginsWhole_finish (hk : BeginsWhole k) : TraceBeginsWhole fun s => finish (k s) := by
  intro s b d t t' h h' hfault hreset
  cases h
  cases h'
  rw [(endsAs_finished _).trace, (endsAs_finished _).trace]
  exact trace_prefix_of_reaches_end hk hfault hreset

theorem traceBeginsWhole_complete (hk : BeginsWhole k) : TraceBeginsWhole fun s => complete (k s) := by
  intro s b d t t' h h' hfault hreset
  cases h
  cases h'
  rw [(endsAs_completed _).trace, (endsAs_completed _).trace]
  rw [completed_faultSeen] at hfault
  rw [completed_resetReq] at hreset
  exact trace_prefix_of_reaches_end hk hfault hreset

/-- What is held or refused in both environments sends nothing in either. -/
theorem trace_prefix_of_endsAs (h : s.EndsAs t) (h' : (s.withPorts b d).EndsAs u) : t.trace <+: u.trace := by
  rw [h.trace, h'.trace]
  exact List.prefix_rfl

theorem execute_endsAs_of_not_run {inR : State → Bool} {body : State → Run} (hrun : ¬ (s.phase = .ready ∧ inR s = true))
    (h : execute inR body s = .next t) : s.EndsAs t := by
  rcases execute_cases inR body s with ⟨-, he⟩ | ⟨-, he⟩ | ⟨-, -, he⟩ | ⟨hp, hr, -⟩
  · cases he.symm.trans h
    exact endsAs_refl s
  · cases he.symm.trans h
    exact endsAs_refuse s _
  · cases he.symm.trans h
    exact endsAs_refuse s _
  · exact absurd ⟨hp, hr⟩ hrun

/-- Whether the body runs is read off the phase and the range check. -/
theorem traceBeginsWhole_execute {inR : State → Bool} {body : State → Run} (hr : ∀ s b d, inR (s.withPorts b d) = inR s)
    (hb : BeginsWhole body) : TraceBeginsWhole (execute inR body) := by
  intro s b d t t' h h' hfault hreset
  by_cases hrun : s.phase = .ready ∧ inR s = true
  · obtain ⟨hp, hin⟩ := hrun
    rw [execute_ready hp hin] at h
    rw [execute_ready (s := s.withPorts b d) hp ((hr s b d).trans hin)] at h'
    exact traceBeginsWhole_complete hb s b d t t' h h' hfault hreset
  · have hrun' : ¬ ((s.withPorts b d).phase = .ready ∧ inR (s.withPorts b d) = true) := by rwa [hr]
    exact trace_prefix_of_endsAs (execute_endsAs_of_not_run hrun h) (execute_endsAs_of_not_run hrun' h')

theorem traceBeginsWhole_executeIllegal : TraceBeginsWhole executeIllegal := fun _ _ _ _ _ h h' _ _ =>
  trace_prefix_of_endsAs (executeIllegal_endsAs h) (executeIllegal_endsAs h')

theorem traceBeginsWhole_exec (i : Instr) : TraceBeginsWhole (exec i) := by
  have operation : ∀ {body}, BeginsWhole body → TraceBeginsWhole (execute noCoordinates body) :=
    traceBeginsWhole_execute fun _ _ _ => rfl
  cases hcode : encode i with
  | word w =>
    rw [funext (exec_of_encode_word hcode)]
    exact traceBeginsWhole_finish (beginsWhole_sendWord w)
  | frame f =>
    cases i with
    | clear => exact operation beginsWhole_bodyClear
    | cursorOn => exact operation (beginsWhole_bodyCursor true)
    | cursorOff => exact operation (beginsWhole_bodyCursor false)
    | blinkOn => exact operation (beginsWhole_bodyBlink true)
    | blinkOff => exact operation (beginsWhole_bodyBlink false)
    | displayOn => exact operation (beginsWhole_bodyDisplay true)
    | displayOff => exact operation (beginsWhole_bodyDisplay false)
    | backlightOn => exact operation (beginsWhole_bodyBacklight true)
    | backlightOff => exact operation (beginsWhole_bodyBacklight false)
    | move save row col => exact traceBeginsWhole_execute (fun _ _ _ => rfl) (beginsWhole_bodyMove save ⟨row, col⟩)
    | putc ch => exact operation (beginsWhole_bodyPutc ch)
    | puts text => exact operation (beginsWhole_bodyPuts text)
    | putsAt row col text => exact traceBeginsWhole_execute (fun _ _ _ => rfl) (beginsWhole_bodyPutsAt ⟨row, col⟩ text)
    | glyph slot8 bitmap => exact operation (beginsWhole_bodyGlyph slot8 bitmap)
    | reservedD rest | reservedE rest | reservedF rest => exact traceBeginsWhole_executeIllegal
    | _ => cases hcode -- a word is no frame

/-- Settles O33: the second state is the first in another environment, and the run from it reaches its end. -/
theorem faultedTraceIsABeginning : Obligations.FaultedTraceIsABeginning := by
  intro i s s' t t' hs _ _ he he' hfault hreset
  rw [hs] at he'
  exact traceBeginsWhole_exec i s s'.bus s'.timer t t' he he' hfault hreset

end Sys2Proof.Machine
end

section
/-! PROOFS. What a reset cuts off (70_reset_and_hazards.md R150), and how a step moves the phase (70_reset_and_hazards.md R156, R158). -/

namespace Sys2Proof.Machine

variable {s t : State} {r : Run} {p : Params} {i : Instr}

/-! A reset while an instruction waits. -/

/-- No statement of a body asks for a reset: where the end of a run leaves one pending, the run was cut off by it. -/
theorem eq_cut_of_resetReq (h : s.ranTo r.state) (hr : s.resetReq = none) (hp : r.finished.resetReq = some p) : ∃ u, r = .cut p u := by
  have hnone : r.state.resetReq = none := (ranTo_resetReq h).trans hr
  cases r with
  | done u | raised e u => cases hnone.symm.trans hp
  | cut q u =>
    cases hp
    exact ⟨u, rfl⟩

/-- An instruction that leaves a reset pending is abandoned where its run stood. -/
theorem exec_abandons (hr : s.resetReq = none) (he : exec i s = .next t) (hp : t.resetReq = some p) :
    ∃ u, s.ranTo u ∧ t = abandon p u := by
  rcases exec_cases i s with ⟨-, ⟨-, h⟩ | ⟨-, reason, h⟩ | ⟨-, r, hran, h⟩⟩ | ⟨-, outs, hplain, h⟩ <;> cases h.symm.trans he
  · cases hr.symm.trans hp
  · cases hr.symm.trans hp
  · obtain ⟨u, rfl⟩ := eq_cut_of_resetReq hran hr ((completed_resetReq r).symm.trans hp)
    exact ⟨u, hran, rfl⟩
  · have hran := ranTo_emit s hplain
    obtain ⟨u, hu⟩ := eq_cut_of_resetReq hran hr hp
    rw [hu] at hran
    exact ⟨u, hran, congrArg Run.finished hu⟩

/-- Settles O40: abandoning an instruction leaves what its run left and the request, which the step takes first. -/
theorem resetAbandonsTheOperation : Obligations.ResetAbandonsTheOperation := by
  intro i s t p hr he hp
  obtain ⟨u, hran, rfl⟩ := exec_abandons hr he hp
  obtain ⟨outs, htrace, -, -⟩ := ranTo_outs hran
  exact ⟨ranTo_status (t := u) hran, ranTo_replies (t := u) hran, ranTo_faultSeen (t := u) hran, ⟨_, htrace.symm⟩, step_reset hp⟩

/-! The phases. -/

/-- The transitions of 70_reset_and_hazards.md R158 other than to UNINIT. -/
def phaseTable : List (Phase × Phase) :=
  [(.uninit, .powerUp), (.powerUp, .modeReset1), (.modeReset1, .modeReset2), (.modeReset2, .modeReset3), (.modeReset3, .fourBit),
    (.fourBit, .configured), (.configured, .ready), (.powerUp, .initFailed), (.modeReset1, .initFailed), (.modeReset2, .initFailed),
    (.modeReset3, .initFailed), (.fourBit, .initFailed), (.configured, .initFailed)]

/-- A fault stays in the phase or takes one of the transitions to INIT_FAILED. -/
theorem afterFault_phaseTable (q : Phase) : q.afterFault = q ∨ (q, q.afterFault) ∈ phaseTable := by
  cases q <;> decide

/-- The phase that a program enters is the one after its own. -/
theorem enter_phaseTable {n : BitVec 3} {q q' : Phase} (h : .enter q' ∈ program n q) : (q, q') ∈ phaseTable := by
  cases q <;> simp [program, modeReset] at h <;> subst h <;> decide

/-- Of the statements only the entering of a phase changes the phase. -/
theorem stmtEnds_phase (s : State) (st : Stmt) : (s.stmtEnds st).phase = s.phase ∨ st = .enter (s.stmtEnds st).phase := by
  rcases st with w | ms | b | q
  · exact .inl rfl
  · exact .inl rfl
  · cases b <;> exact .inl rfl
  · exact .inr rfl

/-- A statement of the phase's program reaches its end, fails at a write, or is cut off by a reset. -/
theorem phase_of_stmt {st : Stmt} {rest : List Stmt} (hr : s.resetReq = none) (hp : s.phase ≠ .uninit) (hprogram : s.onProgram)
    (hst : s.statements = st :: rest) (he : step s = .next t) : t.phase = s.phase ∨ (s.phase, t.phase) ∈ phaseTable := by
  have hmem : st ∈ program s.numLines s.phase := (statements_suffix hprogram).subset (by simp [hst])
  obtain ⟨hphase, -⟩ := stmtWrites_keeps s st
  obtain ⟨pre, -, hsent⟩ := emit_state ((s.stmtWrites st).outStmt st) ((s.stmtWrites st).setSeq rest)
  have hsentPhase := (congrArg State.phase hsent).trans hphase
  cases (step_runs_stmt hr hp hprogram hst).symm.trans he
  cases hrun : emit ((s.stmtWrites st).outStmt st) ((s.stmtWrites st).setSeq rest) with
  | done u =>
    have hu : u.phase = s.phase := by rwa [hrun] at hsentPhase
    rw [Run.done_andThen, finished_done]
    rcases stmtEnds_phase u st with h | h
    · exact .inl (h.trans hu)
    · exact .inr (enter_phaseTable (h ▸ hmem))
  | raised e u =>
    have hu : u.phase = s.phase := by rwa [hrun] at hsentPhase
    change u.phase.afterFault = _ ∨ (_, u.phase.afterFault) ∈ _
    rw [hu]
    exact afterFault_phaseTable s.phase
  | cut q u => exact .inl (by rwa [hrun] at hsentPhase)

/-- A frame on the port changes no phase: what it decodes to is an operation frame. -/
theorem phase_of_fetchFrame {f : Frame} (he : (fetchFrame f s).outcome = .next t) : t.phase = s.phase := by
  rcases fetchFrame_cases f s with ⟨i, hd, hf⟩ | ⟨reason, hf⟩ | hf | hf <;> rw [hf] at he
  · exact exec_phase_of_isFrame (isFrame_of_decodeFrame hd) he
  · cases he
    rfl
  · cases he
    rfl
  · cases he

/-- Settles O44, along the cases of a step. -/
theorem phaseTransitions : Obligations.PhaseTransitions := by
  intro s t hprogram he
  rcases step_cases s with ⟨p, hreq, hs⟩ | ⟨-, hp, hs⟩ | ⟨st, rest, hr, hp, hst, -⟩ | ⟨f, rest, -, -, -, -, hs⟩ | ⟨-, -, -, -, hs⟩
  · refine .inr (.inl ⟨by simp [hreq], ?_⟩)
    rw [hs, assertReset] at he
    split at he <;> cases he
    rfl
  · cases hs.symm.trans he
    exact .inr (.inr (hp ▸ List.mem_cons_self))
  · exact (phase_of_stmt hr hp hprogram hst he).imp_right .inr
  · exact .inl (phase_of_fetchFrame (s := s.setFrames rest) (hs ▸ he))
  · cases hs.symm.trans he
    exact .inl rfl

end Sys2Proof.Machine
end

section
/-! PROOFS. Initialization in a calm environment (70_reset_and_hazards.md R151 to R157): statements that run one after the other leave
the registers that they write and all that they send, and so do the phases. -/

namespace Sys2Proof.Machine

variable {s t : State} {st : Stmt} {sts rest : List Stmt} {outs : List Out} {q : Phase}

/-! Steps in a row. -/

/-- A run begins with its first step. -/
theorem run_of_step (k : Nat) (h : step s = .next t) : Host.Core.run Sys2Proof.core (k + 1) s = Host.Core.run Sys2Proof.core k t := by
  have hcore : Sys2Proof.core.step s = .next t := h
  simp only [Host.Core.run, hcore]

/-- A run that stops nowhere is followed by another. -/
theorem run_add (j k : Nat) (h : Host.Core.run Sys2Proof.core j s = .next t) :
    Host.Core.run Sys2Proof.core (j + k) s = Host.Core.run Sys2Proof.core k t := by
  induction j generalizing s with
  | zero =>
    cases h
    rw [Nat.zero_add]
  | succ j ih =>
    rw [Nat.add_right_comm]
    cases hs : step s with
    | next u =>
      rw [run_of_step _ hs] at h ⊢
      exact ih h
    | fault f => cases f
    | refused r =>
      have hcore : Sys2Proof.core.step s = .refused r := hs
      simp only [Host.Core.run, hcore] at h
      cases h

/-! A statement, and statements in a row. -/

/-- The registers as a statement leaves them that reaches its end. -/
def State.afterStmt (s : State) (st : Stmt) : State := (s.stmtWrites st).stmtEnds st

/-- The registers as statements in a row leave them. -/
def State.afterAll (s : State) : List Stmt → State
  | [] => s
  | st :: rest => (s.afterStmt st).afterAll rest

/-- What goes out for statements in a row. -/
def State.outProgram (s : State) : List Stmt → List Out
  | [] => []
  | st :: rest => (s.stmtWrites st).outStmt st ++ (s.afterStmt st).outProgram rest

/-- The registers that a statement leaves do not depend on what has been sent and what is left to run. -/
theorem afterStmt_emitted_setSeq (s : State) (outs : List Out) (rest : List Stmt) (st : Stmt) :
    ((s.emitted outs).setSeq rest).afterStmt st = ((s.afterStmt st).emitted outs).setSeq rest := by
  rcases st with _ | _ | b | _
  case body => cases b <;> rfl
  all_goals rfl

theorem outStmt_emitted_setSeq (s : State) (outs : List Out) (rest : List Stmt) (st : Stmt) :
    (((s.emitted outs).setSeq rest).stmtWrites st).outStmt st = (s.stmtWrites st).outStmt st := by
  rcases st with _ | _ | b | _
  case body => cases b <;> rfl
  all_goals rfl

theorem afterAll_emitted_setSeq (s : State) (outs : List Out) (rest sts : List Stmt) :
    ((s.emitted outs).setSeq rest).afterAll sts = ((s.afterAll sts).emitted outs).setSeq rest := by
  induction sts generalizing s with
  | nil => rfl
  | cons st sts ih => rw [State.afterAll, afterStmt_emitted_setSeq, ih]; rfl

theorem outProgram_emitted_setSeq (s : State) (outs : List Out) (rest sts : List Stmt) :
    ((s.emitted outs).setSeq rest).outProgram sts = s.outProgram sts := by
  induction sts generalizing s with
  | nil => rfl
  | cons st sts ih => rw [State.outProgram, outStmt_emitted_setSeq, afterStmt_emitted_setSeq, ih]; rfl

/-- A statement that enters no phase writes cursor and flags only. -/
theorem afterStmt_keeps (s : State) (h : ∀ q, st ≠ .enter q) :
    (s.afterStmt st).phase = s.phase ∧ (s.afterStmt st).numLines = s.numLines ∧ (s.afterStmt st).resetReq = s.resetReq ∧
    (s.afterStmt st).bus = s.bus ∧ (s.afterStmt st).timer = s.timer := by
  rcases st with _ | _ | b | q
  case body => cases b <;> exact ⟨rfl, rfl, rfl, rfl, rfl⟩
  case enter => exact absurd rfl (h q)
  all_goals exact ⟨rfl, rfl, rfl, rfl, rfl⟩

theorem step_calm (hr : s.resetReq = none) (hp : s.phase ≠ .uninit) (hprogram : s.onProgram) (hst : s.statements = st :: rest)
    (hc : s.calm (writesIn ((s.stmtWrites st).outStmt st)) (delaysIn ((s.stmtWrites st).outStmt st))) :
    step s = .next (((s.afterStmt st).emitted ((s.stmtWrites st).outStmt st)).setSeq rest) := by
  obtain ⟨-, -, -, hbus, htimer⟩ := stmtWrites_keeps s st
  have hsent := emit_calm (calm_congr (t := (s.stmtWrites st).setSeq rest) hbus htimer hc)
  rw [step_runs_stmt hr hp hprogram hst, hsent, Run.done_andThen, finished_done]
  rcases st with _ | _ | b | _
  case body => cases b <;> rfl
  all_goals rfl

theorem setSeq_nil_of_seq (hseq : s.seq = []) : s.setSeq [] = s := by rw [← hseq]; rfl

/-- All that is left of a program runs, one statement a step. Its last statement alone may enter a phase, so the ones before it leave
the engine on its program. -/
theorem run_statements (hr : s.resetReq = none) (hp : s.phase ≠ .uninit) (hprogram : s.onProgram) (hst : s.statements = st :: rest)
    (hc : s.calm (writesIn (s.outProgram (st :: rest))) (delaysIn (s.outProgram (st :: rest)))) :
    Host.Core.run Sys2Proof.core (rest.length + 1) s =
      .next (((s.afterAll (st :: rest)).emitted (s.outProgram (st :: rest))).setSeq []) := by
  induction rest generalizing s st with
  | nil =>
    rw [State.outProgram, State.outProgram, List.append_nil] at hc ⊢
    rw [run_of_step _ (step_calm hr hp hprogram hst hc)]
    rfl
  | cons st' rest ih =>
    rw [State.outProgram] at hc ⊢
    have hsuffix : st :: st' :: rest <:+ program s.numLines s.phase := hst ▸ statements_suffix hprogram
    have henter : ∀ q, st ≠ .enter q := fun q hq => by
      subst hq
      cases (enter_on_program hsuffix).1
    obtain ⟨hphase, hlines, hreset, hbus, htimer⟩ := afterStmt_keeps s henter
    rw [writesIn_append, delaysIn_append] at hc
    have hfirst := step_calm hr hp hprogram hst (calm_mono hc (Nat.le_add_right _ _) (Nat.le_add_right _ _))
    have hleft := ih (s := ((s.afterStmt st).emitted ((s.stmtWrites st).outStmt st)).setSeq (st' :: rest)) (hreset.trans hr)
      (by simpa [hphase] using hp) ?_ (statements_of_seq rfl) ?_
    · rw [run_of_step _ hfirst, List.length_cons, hleft, afterAll_emitted_setSeq, outProgram_emitted_setSeq, ← emitted_emitted]
      rfl
    · change st' :: rest <:+ program (s.afterStmt st).numLines (s.afterStmt st).phase
      rw [hphase, hlines]
      exact (List.suffix_cons _ _).trans hsuffix
    · rw [outProgram_emitted_setSeq]
      exact calm_emitted _ (calm_congr hbus htimer hc)

/-- From its beginning a phase runs its whole program. -/
theorem run_phase {k : Nat} (hseq : s.seq = []) (hr : s.resetReq = none) (hphase : s.phase = q)
    (hk : (program s.numLines q).length = k + 1) (houts : s.outProgram (program s.numLines q) = outs)
    (hafter : s.afterAll (program s.numLines q) = t) (htseq : t.seq = []) (hc : s.calm (writesIn outs) (delaysIn outs)) :
    Host.Core.run Sys2Proof.core (k + 1) s = .next (t.emitted outs) := by
  subst houts hafter hphase
  have hst : s.statements = program s.numLines s.phase := by simp [State.statements, hseq]
  have hp : s.phase ≠ .uninit := fun h => by
    rw [h] at hk
    cases hk
  have hprogram : s.onProgram := by
    rw [State.onProgram, hseq]
    exact List.nil_suffix
  cases hsts : program s.numLines s.phase with
  | nil => simp [hsts] at hk
  | cons st rest =>
    rw [hsts] at hk hst hc htseq
    cases hk
    rw [run_statements hr hp hprogram hst hc]
    exact congrArg Host.Outcome.next (setSeq_nil_of_seq htseq)

/-! The first five phases. -/

/-- The phases before CONFIGURED, each with what it sends and the phase it enters (70_reset_and_hazards.md R151 to R153). -/
def wakeRows : List (Phase × List Out × Phase) :=
  [(.powerUp, [.w 0x00, .d 20], .modeReset1), (.modeReset1, [.w 0x34, .w 0x30, .d 5], .modeReset2),
    (.modeReset2, [.w 0x34, .w 0x30, .d 1], .modeReset3), (.modeReset3, [.w 0x34, .w 0x30, .d 1], .fourBit),
    (.fourBit, [.w 0x24, .w 0x20, .d 1], .configured)]

/-- `k` steps from `s` send these outputs and enter the phase. -/
def Enters (s : State) (k : Nat) (outs : List Out) (q : Phase) : Prop :=
  Host.Core.run Sys2Proof.core k s = .next ((s.emitted outs).setPhase q)

/-- Settles O41: each of the five programs sends a word and waits. -/
theorem initPhasesSend : Obligations.InitPhasesSend := by
  intro s hseq hr p hp hphase hc
  simp only [List.mem_cons, List.not_mem_nil, or_false] at hp
  rcases hp with rfl | rfl | rfl | rfl | rfl <;> exact run_phase hseq hr hphase rfl rfl rfl hseq hc

/-! CONFIGURED. -/

/-- What CONFIGURED sends: the base initializer and the final function set (70_reset_and_hazards.md R154, R155). -/
def State.outConfigured (s : State) : List Out :=
  outCommand s.backlight (encDisplayControl false s.cursor s.blink) ++ [.w 0x08] ++ outCommand true 0x01 ++ outCommand true 0x02 ++
    outCommand true 0x06 ++ outCommand true (encDisplayControl false false s.blink) ++
    outCommand true (encDisplayControl true false s.blink) ++ outCommand true (if s.numLines.toNat > 1 then 0x28 else 0x20)

/-- The registers that CONFIGURED leaves (70_reset_and_hazards.md R154, R155). -/
def State.initialized (s : State) : State :=
  { s with cur := ⟨0, 0⟩, backlight := true, display := true, cursor := false, phase := .ready }

theorem afterAll_configured (s : State) : s.afterAll (program s.numLines .configured) = s.initialized := by
  cases s
  rfl

theorem outProgram_configured (s : State) : s.outProgram (program s.numLines .configured) = s.outConfigured := by
  calc s.outProgram (program s.numLines .configured)
      = outCommand s.backlight (encDisplayControl false s.cursor s.blink) ++ ([.w (backlightBits true)] ++
          ((outCommand true CLR ++ outCommand true HOME) ++ (outCommand true encEntryMode ++
            (outCommand true (encDisplayControl false false s.blink) ++ (outCommand true (encDisplayControl true false s.blink) ++
              (outCommand true (encFunctionSet s.numLines.toNat) ++ [])))))) := rfl
    _ = s.outConfigured := by
      simp only [State.outConfigured, encFunctionSet_eq_ite, List.append_assoc, List.append_nil]
      rfl

theorem writesIn_outConfigured (s : State) : writesIn s.outConfigured = 29 := by
  simp [State.outConfigured, writesIn]

theorem delaysIn_outConfigured (s : State) : delaysIn s.outConfigured = 2 := by
  have hdisplay : ∀ d c b, ¬ (encDisplayControl d c b).toNat ≤ 3 := fun d c b =>
    Nat.not_le.mpr (Nat.lt_of_lt_of_le (by decide) (encDisplayControl_toNat d c b))
  have hfunction : ¬ (if s.numLines.toNat > 1 then (0x28 : Byte) else 0x20).toNat ≤ 3 := by split <;> decide
  simp only [State.outConfigured, delaysIn_append, delaysIn_outCommand, hdisplay, hfunction, if_false]
  rfl

/-- Settles O42: the program of CONFIGURED has eight statements, of which seven send. -/
theorem configuredPhaseSends : Obligations.ConfiguredPhaseSends := by
  intro s hphase hseq hr hc
  have hcalm : s.calm (writesIn s.outConfigured) (delaysIn s.outConfigured) := by
    rwa [writesIn_outConfigured, delaysIn_outConfigured]
  exact run_phase (t := s.initialized) hseq hr hphase rfl (outProgram_configured s) (afterAll_configured s) hseq hcalm

/-! From the release of reset to READY. -/

/-- What goes out before CONFIGURED. -/
def outWake : List Out := wakeRows.flatMap fun row => row.2.1

/-- A phase that has been entered sends next what its row `j` of the table says. -/
theorem enters_next {k : Nat} (j : Nat) {outs' : List Out} {q' : Phase} (hseq : s.seq = []) (hr : s.resetReq = none)
    (h : Enters s k outs q) (hrow : wakeRows[j]? = some (q, outs', q')) (hc : s.calm (writesIn outs + writesIn outs') (delaysIn outs + 1)) :
    Enters s (k + 3) (outs ++ outs') q' := by
  have hnext := initPhasesSend ((s.emitted outs).setPhase q) hseq hr _ (List.mem_of_getElem? hrow) rfl (calm_emitted outs hc)
  rw [Enters, run_add k 3 h, hnext, ← emitted_emitted]
  rfl

/-- The first five phases, one after the other. -/
theorem enters_configured (hseq : s.seq = []) (hr : s.resetReq = none) (hp : s.phase = .powerUp) (hc : s.calm 9 5) :
    Enters s 15 outWake .configured := by
  have hstart : Enters s 0 [] .powerUp := by
    rw [Enters, emitted_nil, ← hp]
    rfl
  have calm {w d : Nat} (hw : w ≤ 9) (hd : d ≤ 5) : s.calm w d := calm_mono hc hw hd
  have hmodeReset1 := enters_next 0 hseq hr hstart rfl (calm (by decide) (by decide))
  have hmodeReset2 := enters_next 1 hseq hr hmodeReset1 rfl (calm (by decide) (by decide))
  have hmodeReset3 := enters_next 2 hseq hr hmodeReset2 rfl (calm (by decide) (by decide))
  have hfourBit := enters_next 3 hseq hr hmodeReset3 rfl (calm (by decide) (by decide))
  have hconfigured := enters_next 4 hseq hr hfourBit rfl (calm (by decide) (by decide))
  exact hconfigured

/-- In a calm environment the phases of initialization bring a released engine to READY (70_reset_and_hazards.md R157). -/
theorem run_init (p : Params) (hc : s.calm 38 7) : Host.Core.run Sys2Proof.core 23 (s.resetWith p) =
    .next ((s.resetWith p).emitted (outWake ++ (s.resetWith p).outConfigured)).initialized := by
  have hcalm : (s.resetWith p).calm (writesIn outWake + 29) (delaysIn outWake + 2) := hc
  have hwake : Enters (s.resetWith p) 15 outWake .configured :=
    enters_configured rfl rfl rfl (calm_mono hcalm (by decide) (by decide))
  rw [run_add 15 8 hwake, ← emitted_emitted]
  exact configuredPhaseSends (((s.resetWith p).emitted outWake).setPhase .configured) rfl rfl rfl (calm_emitted outWake hcalm)

/-- Settles O43: the state after the first phases and CONFIGURED, from the registers that reset loads. -/
theorem initReachesReady : Obligations.InitReachesReady := by
  intro s p _ hc
  refine ⟨_, outWake ++ (s.resetWith p).outConfigured, run_init p hc, rfl, rfl, rfl, rfl, rfl, rfl, rfl, rfl, rfl, rfl,
    ⟨rfl, rfl, rfl⟩, rfl, ?_, ?_⟩
  · rw [writesIn_append, writesIn_outConfigured]
    rfl
  · rw [delaysIn_append, delaysIn_outConfigured]
    rfl

end Sys2Proof.Machine
end

section
/-! PROOFS. Initialization brings the controller into step, whatever state it was in (70_reset_and_hazards.md R152, R157; PRESUMED
controller, log entries 18 to 20). -/

namespace Sys2Proof.Machine

variable {c : Controller} {s t : State} {l : Link}

/-! The link. -/

/-- How the controller takes nibbles after a command byte: only a function set changes that. -/
def commandLink (v : Byte) (l : Link) : Link :=
  if classify v = some .functionSet then (if v.getLsbD 4 then .eightBit else .fourBit none) else l

theorem command_link (c : Controller) (v : Byte) : (c.command v).link = commandLink v c.link := by
  unfold Controller.command commandLink
  cases classify v with
  | none => rfl
  | some k => cases k <;> rfl

/-- How the controller takes nibbles after a nibble of a command. -/
def nibbleLink (n : Nibble) : Link → Link
  | .eightBit => commandLink (n ++ 0#4) .eightBit
  | .fourBit none => .fourBit (some n)
  | .fourBit (some h) => commandLink (h ++ n) (.fourBit none)

theorem nibble_link (n : Nibble) (c : Controller) : (c.nibble false n).link = nibbleLink n c.link := by
  cases hl : c.link with
  | eightBit =>
    rw [Controller.nibble, hl]
    exact (command_link c _).trans (by rw [hl]; rfl)
  | fourBit high =>
    cases high with
    | none =>
      rw [Controller.nibble, hl]
      rfl
    | some h =>
      rw [Controller.nibble, hl]
      exact command_link _ _

/-- Three FUNCTION_RESET nibbles bring any link to the 8-bit interface: a waiting high nibble takes the first, and the other two make
one function set (70_reset_and_hazards.md R152). -/
theorem nibbleLink_reset_thrice (l : Link) : nibbleLink 0x3 (nibbleLink 0x3 (nibbleLink 0x3 l)) = .eightBit := by
  rcases l with _ | _ | h
  · decide
  · decide
  · revert h
    decide

/-- The FUNCTION nibble is a whole function set on the 8-bit interface, and chooses the 4-bit one. -/
theorem nibbleLink_function : nibbleLink 0x2 .eightBit = .fourBit none := by decide

/-! The latch. -/

theorem command_latch (c : Controller) (v : Byte) : (c.command v).latch = c.latch := by
  unfold Controller.command
  cases classify v with
  | none => rfl
  | some k => cases k <;> rfl

theorem data_latch (c : Controller) (v : Byte) : (c.data v).latch = c.latch := by
  unfold Controller.data
  split <;> rfl

theorem byte_latch (c : Controller) (rs : Bool) (v : Byte) : (c.byte rs v).latch = c.latch := by
  cases rs with
  | false => exact command_latch c v
  | true => exact data_latch c v

theorem nibble_latch (c : Controller) (rs : Bool) (n : Nibble) : (c.nibble rs n).latch = c.latch := by
  unfold Controller.nibble
  split
  · exact byte_latch c rs _
  · rfl
  · exact byte_latch _ rs _

theorem take_latch (c : Controller) (b : Byte) : (c.take b).latch = b := by
  simp only [Controller.take]
  split
  · exact nibble_latch _ _ _
  · rfl

/-! The first five phases. -/

/-- The link is `l`, and E is low. -/
def Linked (c : Controller) (l : Link) : Prop := c.link = l ∧ c.latch.getLsbD 2 = false

/-- The idle byte leaves E low, though it may end a pulse of E begun before it. -/
theorem linked_outIdle (c : Controller) (ms : Nat) (addr : BitVec 7) :
    ∃ l, Linked (c.run ([Out.w 0x00, .d ms].map (Out.event addr))) l := by
  refine ⟨_, rfl, ?_⟩
  change (c.take 0x00).latch.getLsbD 2 = false
  rw [take_latch]
  rfl

theorem linked_outInitNibble (h : Linked c l) (n : Nibble) (ms : Nat) (addr : BitVec 7) :
    Linked (c.run ((outNibble false false n ++ [Out.d ms]).map (Out.event addr))) (nibbleLink n l) := by
  obtain ⟨hlink, hlow⟩ := h
  have hdelay : ∀ d : Controller, d.run ([Out.d ms].map (Out.event addr)) = d := fun _ => rfl
  rw [List.map_append, Controller.run_append, hdelay, Controller.run_outNibble c false false n addr hlow]
  refine ⟨(nibble_link n _).trans (congrArg (nibbleLink n) hlink), ?_⟩
  rw [nibble_latch]
  exact (expanderBits_latch n false false).1

/-- From any state, the first five phases bring the controller to the 4-bit interface, waiting for a high nibble. -/
theorem linked_outWake (c : Controller) (addr : BitVec 7) : Linked (c.run (outWake.map (Out.event addr))) (.fourBit none) := by
  have hwake : outWake = [Out.w 0x00, .d 20] ++ ((outNibble false false 0x3 ++ [Out.d 5]) ++ ((outNibble false false 0x3 ++ [Out.d 1]) ++
      ((outNibble false false 0x3 ++ [Out.d 1]) ++ (outNibble false false 0x2 ++ [Out.d 1])))) := by decide
  obtain ⟨l, hidle⟩ := linked_outIdle c 20 addr
  have hreset := linked_outInitNibble (linked_outInitNibble (linked_outInitNibble hidle 0x3 5 addr) 0x3 1 addr) 0x3 1 addr
  rw [nibbleLink_reset_thrice] at hreset
  simpa only [hwake, List.map_append, Controller.run_append, nibbleLink_function] using linked_outInitNibble hreset 0x2 1 addr

/-! CONFIGURED. -/

theorem linked_outCommand (h : Linked c (.fourBit none)) (bl : Bool) {cmd : Byte} (hcmd : classify cmd ≠ some .functionSet)
    (addr : BitVec 7) : Linked (c.run ((outCommand bl cmd).map (Out.event addr))) (.fourBit none) := by
  obtain ⟨hlink, hlow⟩ := h
  rw [Controller.run_outCommand bl cmd addr hlow hlink]
  refine ⟨?_, ?_⟩
  · rw [command_link, commandLink, if_neg hcmd]
    exact hlink
  · rw [command_latch]
    exact (expanderBits_latch _ bl false).1

theorem linked_backlight (h : Linked c l) (bl : Bool) (addr : BitVec 7) :
    Linked (c.run ([Out.w (backlightBits bl)].map (Out.event addr))) l := by
  obtain ⟨hlink, hlow⟩ := h
  rw [Controller.run_backlight bl addr hlow]
  exact ⟨hlink, (backlightBits_latch bl).1⟩

/-- HOME sets the address of the home position. -/
theorem pointer_outHome (h : Linked c (.fourBit none)) (bl : Bool) (addr : BitVec 7) :
    (c.run ((outCommand bl HOME).map (Out.event addr))).pointer = .ddram homePos.address := by
  obtain ⟨hlink, hlow⟩ := h
  rw [Controller.run_outCommand bl HOME addr hlow hlink, homePos_address]
  simp only [Controller.command, home_command]

/-- `s` with the flags that the controller shows. -/
def State.withFlagsOf (s : State) (c : Controller) : State := { s with display := c.display, cursor := c.cursor, blink := c.blink }

/-- The entry mode makes the controller count up, and with the address of the cursor only its flags can still differ. -/
theorem synced_outEntryMode (h : Linked c (.fourBit none)) (hp : c.pointer = .ddram s.cur.address) (addr : BitVec 7) :
    Synced (c.run ((outCommand s.backlight encEntryMode).map (Out.event addr))) (s.withFlagsOf c) := by
  have hclass : classify encEntryMode = some .entryMode := by decide
  have hup : encEntryMode.getLsbD 1 = true := by decide
  obtain ⟨hlink, hlow⟩ := h
  rw [Controller.run_outCommand s.backlight encEntryMode addr hlow hlink]
  simp only [Controller.command, hclass, hup]
  exact ⟨hlink, rfl, hp, rfl, rfl, rfl, expanderBits_latch _ s.backlight false⟩

theorem functionSetByte_command : ∀ n, classify (functionSetByte n) = some .functionSet ∧ (functionSetByte n).getLsbD 4 = false ∧
    (functionSetByte n).getLsbD 3 = n := by decide

/-- A function set of the engine keeps the 4-bit interface and sets the line mode. -/
theorem synced_outFunctionSet (h : Synced c s) (n : Bool) (addr : BitVec 7) :
    Synced (c.run ((outCommand s.backlight (functionSetByte n)).map (Out.event addr))) s ∧
      (c.run ((outCommand s.backlight (functionSetByte n)).map (Out.event addr))).twoLine = n := by
  obtain ⟨hclass, hwidth, hlines⟩ := functionSetByte_command n
  obtain ⟨hlink, hinc, hpointer, hd, hc, hb, hlow, -⟩ := h
  rw [Controller.run_outCommand s.backlight _ addr hlow hlink]
  simp only [Controller.command, hclass, hwidth, hlines, and_true]
  exact ⟨rfl, hinc, hpointer, hd, hc, hb, expanderBits_latch _ s.backlight false⟩

/-- CONFIGURED brings a controller that waits for a command into step: the address by HOME, the count by the entry mode, the flags by
the display control, and the line mode by the function set. -/
theorem synced_outConfigured (h : Linked c (.fourBit none)) (s : State) (addr : BitVec 7) :
    Synced (c.run (s.outConfigured.map (Out.event addr))) s.initialized ∧
      (c.run (s.outConfigured.map (Out.event addr))).twoLine = decide (1 < s.numLines.toNat) := by
  obtain ⟨hdisplay, -⟩ := encDisplayControl_command false s.cursor s.blink
  have hoff := linked_outCommand h s.backlight (cmd := encDisplayControl false s.cursor s.blink) (by simp [hdisplay]) addr
  have hclear := linked_outCommand (linked_backlight hoff true addr) true (cmd := CLR) (by decide) addr
  have hhome := linked_outCommand hclear true (cmd := HOME) (by decide) addr
  have hentry := synced_outEntryMode (s := s.initialized) hhome (pointer_outHome hclear true addr) addr
  have hcursor := synced_outFlags (t := s.initialized.setDisplay false) hentry rfl addr
  have hon := synced_outFlags (t := s.initialized) hcursor rfl addr
  have hlines := synced_outFunctionSet hon (decide (1 < s.numLines.toNat)) addr
  rw [State.outConfigured, ← encFunctionSet_eq_ite]
  simp only [List.map_append, Controller.run_append]
  exact hlines

/-- Settles O57: what the first phases and CONFIGURED send, read by any controller. -/
theorem initBringsTheControllerIntoStep : Obligations.InitBringsTheControllerIntoStep := by
  intro c s t p _ hcalm hrun
  cases (run_init p hcalm).symm.trans hrun
  change Synced (c.run (s.trace ++ (outWake ++ _).map (Out.event p.i2cAddr))) (s.resetWith p).initialized ∧
    (c.run (s.trace ++ (outWake ++ _).map (Out.event p.i2cAddr))).twoLine = _
  rw [List.map_append, Controller.run_append, Controller.run_append]
  exact synced_outConfigured (linked_outWake _ _) (s.resetWith p) p.i2cAddr

end Sys2Proof.Machine
end
